-- ==== Sys2Proof/Word.lean ====
section
/-! DEFINITION. The value types of the block (`00_scope.md` R16): a byte, and nothing wider. -/

namespace Sys2Proof

/-- A byte: an 8-bit unsigned value; `+` and `-` on it are the spec's `+8` and `-8` (R16). -/
abbrev Byte := BitVec 8

/-- A four-bit field of an opcode: the cell position or the glyph slot in `op[3:0]` (R56). -/
abbrev Nibble := BitVec 4

end Sys2Proof
end

