-- ==== Sys2Proof/Config.lean ====
section
/-! DEFINITION. What an implementation fixes: the Configuration a block is constructed with, the fixed transport and pin
parameters, and the values the spec leaves open. -/

namespace Sys2Proof

/-- The Configuration, "Immutable after construction" (`00_scope.md` R10): five pin identifiers, the bus clock rate and
the digit count (8 bits, R12). -/
structure Configuration where
  pinSdata : Nat
  pinSclk : Nat
  pinCs : Nat
  pinRst : Nat
  pinEn : Nat
  clockHz : Nat
  digits : Byte
  deriving DecidableEq, Repr

/-- The five pins, in the order of R10: what `CfgPins` configures (R23, R82). -/
def Configuration.pins (c : Configuration) : List Nat :=
  [c.pinSdata, c.pinSclk, c.pinCs, c.pinRst, c.pinEn]

/-- The Configuration of the block at `State.reset`. DESIGN CHOICE, unsafe (log 3): the spec gives no pin numbers and no
clock rate, and its digit count is a parameter; 8 is the digit count of its examples. -/
def Config.resetConfiguration : Configuration where
  pinSdata := 0
  pinSclk := 1
  pinCs := 2
  pinRst := 3
  pinEn := 4
  clockHz := 1
  digits := 8

/-- Bit order on the serial-data line. -/
inductive BitOrder where
  | lsbFirst
  | msbFirst
  deriving DecidableEq, Repr

/-- Duplex mode of the link. -/
inductive Duplex where
  | half
  | full
  deriving DecidableEq, Repr

/-- The parameters the transport is opened with, but for the clock rate, which is `cfg.clock_hz` (R22). -/
structure Transport where
  mode : Nat
  duplex : Duplex
  bitOrder : BitOrder
  hardwareChipSelect : Option Nat
  deriving DecidableEq, Repr

/-- "mode 0, configured clock rate, half-duplex, least-significant-bit-first bit order, no dedicated hardware chip-select"
(R22). -/
def Config.transport : Transport where
  mode := 0
  duplex := .half
  bitOrder := .lsbFirst
  hardwareChipSelect := none

/-- How a pin is configured. -/
structure PinSetup where
  output : Bool
  pullUp : Bool
  interrupts : Bool
  deriving DecidableEq, Repr

/-- "Configure all five pins as digital outputs (internal pull-up enabled), interrupts disabled." (R23) -/
def Config.pinSetup : PinSetup where
  output := true
  pullUp := true
  interrupts := false

/-- FREE VALUE (D21, U10; log 7): whether the n-th capability call that no placed answer covers succeeds. It has no body,
so nothing can be proved of it but what holds for both answers. -/
opaque Config.callSucceeds : Nat → Bool

/-- FREE VALUE (R15, D10; log 19): chip-select low to first clock. No rule reads it. -/
opaque Config.tCsSetup : Nat

/-- FREE VALUE (R15, D10; log 19): last clock to chip-select high. No rule reads it. -/
opaque Config.tCsHold : Nat

/-- FREE VALUE (R15, D10; log 19): between two bytes of one frame. No rule reads it. -/
opaque Config.tByteGap : Nat

/-- FREE VALUE (R15, D10; log 19): chip-select high between two frames. No rule reads it. -/
opaque Config.tCsIdle : Nat

/-- FREE VALUE (R15, R96, D10; log 19): reset high to first frame. No rule reads it. -/
opaque Config.tPostReset : Nat

end Sys2Proof
end

