-- ==== Sys2Proof/Syntax.lean ====
section
/-! DEFINITION. The requests a host can make of the block and the instructions of `opcode_table.json`.

The spec has two levels (`30_encoding.md`): a host operation is a call with arguments, a wire command is a frame on the
bus. Host arguments are plain numbers, because the spec refuses a call whose argument lies outside its type (R132):
the type is checked in `WellFormed.lean`, not built into the term. -/

namespace Sys2Proof

/-- A request of the host agent: one call of the boundary surface with its arguments (R19). -/
inductive Request where
  /-- `init()` (R80). -/
  | init
  /-- `teardown()` (R98). -/
  | teardown
  /-- `write_char(position, code)` (R103). -/
  | writeChar (position code : Nat)
  /-- `write_string(start, text)` (R104). -/
  | writeString (start : Nat) (text : List Nat)
  /-- `load_custom_font({id, data})` (R105). -/
  | loadCustomFont (id : Nat) (data : List Nat)
  /-- `set_brightness(level)` (R106). -/
  | setBrightness (level : Nat)
  /-- `full_test(duration_ms)` (R107). -/
  | fullTest (durationMs : Nat)
  /-- `clear()` (R108). -/
  | clear
  deriving DecidableEq, Repr

/-- The instructions: one constructor per row of `opcode_table.json`. The first eleven rows are the host level (three of
them steps of `init()`), the last six the wire commands. -/
inductive Instr where
  /-- INIT (R80). -/
  | init
  /-- INIT_SET_DIGITS, step 5 of `init()` (R85). -/
  | initSetDigits
  /-- INIT_BRIGHTNESS, step 6 of `init()` (R86). -/
  | initBrightness
  /-- RESET_SEQUENCE, step 4 of `init()` (R92). -/
  | resetSequence
  /-- TEARDOWN (R98). -/
  | teardown
  /-- WRITE_CHAR (R103). -/
  | writeChar (position code : Nat)
  /-- WRITE_STRING (R104). -/
  | writeString (start : Nat) (text : List Nat)
  /-- LOAD_CUSTOM_FONT (R105). -/
  | loadCustomFont (id : Nat) (data : List Nat)
  /-- SET_BRIGHTNESS (R106). -/
  | setBrightness (level : Nat)
  /-- FULL_TEST (R107). -/
  | fullTest (durationMs : Nat)
  /-- CLEAR (R108). -/
  | clear
  /-- CELL_WRITE, opcode `0x20 | p` and any payload (R114). -/
  | cellWrite (p : Nibble) (codes : List Byte)
  /-- GLYPH_WRITE, opcode `0x40 | i` and 0 to 5 payload bytes (R115). -/
  | glyphWrite (i : Nibble) (bitmap : List Byte)
  /-- SET_DIGITS, opcode `0xE0` and one payload byte (R116). -/
  | setDigits (n : Byte)
  /-- SET_BRIGHTNESS_CMD, opcode `0xE4` and one payload byte (R117). -/
  | setBrightnessCmd (v : Byte)
  /-- NORMAL, opcode `0xE8` alone (R119). -/
  | normal
  /-- LAMP_TEST, opcode `0xE9` alone (R118). -/
  | lampTest
  deriving DecidableEq, Repr

/-- The instruction a request asks for. -/
def Request.toInstr : Request → Instr
  | .init => .init
  | .teardown => .teardown
  | .writeChar position code => .writeChar position code
  | .writeString start text => .writeString start text
  | .loadCustomFont id data => .loadCustomFont id data
  | .setBrightness level => .setBrightness level
  | .fullTest durationMs => .fullTest durationMs
  | .clear => .clear

/-- The display operations: the six calls that require Ready (R100, R128). -/
def Request.isDisplay : Request → Bool
  | .init => false
  | .teardown => false
  | .writeChar _ _ => true
  | .writeString _ _ => true
  | .loadCustomFont _ _ => true
  | .setBrightness _ => true
  | .fullTest _ => true
  | .clear => true

/-- The wire commands: the instructions a decoder of the bus sees (R62). -/
def Instr.isWire : Instr → Bool
  | .init => false
  | .initSetDigits => false
  | .initBrightness => false
  | .resetSequence => false
  | .teardown => false
  | .writeChar _ _ => false
  | .writeString _ _ => false
  | .loadCustomFont _ _ => false
  | .setBrightness _ => false
  | .fullTest _ => false
  | .clear => false
  | .cellWrite _ _ => true
  | .glyphWrite _ _ => true
  | .setDigits _ => true
  | .setBrightnessCmd _ => true
  | .normal => true
  | .lampTest => true

end Sys2Proof
end

