-- ==== Sys2Proof/WellFormed.lean ====
section
/-! DEFINITION. What makes a Configuration and a call well formed: the checks behind the refusals BadConfig (R131) and
BadArgument (R132), and the payload length of a GLYPH_WRITE (R62). -/

namespace Sys2Proof

/-- Five distinct pins, a positive clock rate and a digit count from 1 to 16 (R131, D13). -/
def Configuration.wf (c : Configuration) : Bool :=
  decide (1 ≤ c.digits.toNat ∧ c.digits.toNat ≤ 16) && decide c.pins.Nodup && decide (0 < c.clockHz)

/-- A number that fits a byte argument (R12). -/
def isByte (n : Nat) : Bool := decide (n < 256)

/-- The arguments have the types of R12; otherwise the call is refused with BadArgument (R132). A value that has the type
but lies outside its documented range is well formed (R132, R134). -/
def Request.wf : Request → Bool
  | .init => true
  | .teardown => true
  | .writeChar position code => isByte position && isByte code
  | .writeString start text => isByte start && text.all isByte
  | .loadCustomFont id data => isByte id && decide (data.length = 5) && data.all isByte
  | .setBrightness level => isByte level
  | .fullTest durationMs => decide (durationMs < 2 ^ 32)
  | .clear => true

/-- Well-formed instructions: a host operation whose arguments have their types, or a wire command whose payload length
fits it (R62). -/
def Instr.wf : Instr → Bool
  | .init => Request.init.wf
  | .initSetDigits => true
  | .initBrightness => true
  | .resetSequence => true
  | .teardown => Request.teardown.wf
  | .writeChar position code => (Request.writeChar position code).wf
  | .writeString start text => (Request.writeString start text).wf
  | .loadCustomFont id data => (Request.loadCustomFont id data).wf
  | .setBrightness level => (Request.setBrightness level).wf
  | .fullTest durationMs => (Request.fullTest durationMs).wf
  | .clear => Request.clear.wf
  | .cellWrite _ _ => true
  | .glyphWrite _ bitmap => decide (bitmap.length ≤ 5)
  | .setDigits _ => true
  | .setBrightnessCmd _ => true
  | .normal => true
  | .lampTest => true

end Sys2Proof
end

