-- ==== Sys2Proof/Decode.lean ====
section
/-! DEFINITION. Frames of the bus to instructions and back (`30_encoding.md`).

What has an encoding in bits is the wire command: a frame, that is an opcode byte and its payload, whose end is told by
chip-select (R63). A host operation has none of its own; `encode` gives the frames it puts on the bus (R61), and since a
frame does not determine the operation that sent it (R64), decoding a frame gives a wire command (log 1). Every opcode
literal of the spec is named here and nowhere else (U1, log 22). -/

namespace Sys2Proof

/-! ### Opcodes (R46, R56, R62) -/

/-- Base of the cell opcodes, `0x20` to `0x2F`. -/
def opCell : Byte := 0x20#8

/-- Base of the glyph-slot opcodes, `0x40` to `0x4F`. -/
def opGlyph : Byte := 0x40#8

/-- Set digit count. -/
def opSetDigits : Byte := 0xE0#8

/-- Set brightness. -/
def opBrightness : Byte := 0xE4#8

/-- Normal rendering, end of the lamp test. -/
def opNormal : Byte := 0xE8#8

/-- Lamp test, all segments on. -/
def opLampTest : Byte := 0xE9#8

/-- The brightness `init()` sends: "maximum (payload `0xFF`)" (R86). -/
def maxBrightness : Byte := 0xFF#8

/-- The code `clear()` writes to every cell: a space (R108). -/
def blankCode : Byte := 0x20#8

/-- The byte that ends the payload of an FN frame (R73). -/
def terminator : Byte := 0x00#8

/-! ### Operand assembly (R57 to R60) -/

/-- A host argument as the byte that is sent or added (R12, R60). -/
def byteOf (n : Nat) : Byte := BitVec.ofNat 8 n

/-- `0x20 +8 position` (R57, R59). -/
def cellOpcode (position : Nat) : Byte := opCell + byteOf position

/-- `0x40 +8 font.id` (R57, R59). -/
def glyphOpcode (id : Nat) : Byte := opGlyph + byteOf id

/-- The digit-count payload `digits -8 1` (R60). -/
def digitsPayload (c : Configuration) : Byte := c.digits - 1#8

/-- The payload of `clear()`: `repeat(digits, 0x20)` (R108). -/
def blanks (c : Configuration) : List Byte := List.replicate c.digits.toNat blankCode

/-- `takeWhile(≠ 0x00, p)`: the payload bytes an FN frame sends (R55, R73). -/
def untilZero (p : List Byte) : List Byte := p.takeWhile (fun b => b != terminator)

/-! ### Bits on the wire (R40, R68) -/

/-- The eight data bits of one byte in the order they go out, for the bit order the transport is opened with (R22, R40). -/
def byteBits (b : Byte) : List Bool :=
  match Config.transport.bitOrder with
  | .lsbFirst => [b.getLsbD 0, b.getLsbD 1, b.getLsbD 2, b.getLsbD 3, b.getLsbD 4, b.getLsbD 5, b.getLsbD 6, b.getLsbD 7]
  | .msbFirst => [b.getLsbD 7, b.getLsbD 6, b.getLsbD 5, b.getLsbD 4, b.getLsbD 3, b.getLsbD 2, b.getLsbD 1, b.getLsbD 0]

/-- The data bits of a frame after chip-select falls (R68). -/
def frameBits (frame : List Byte) : List Bool := frame.flatMap byteBits

/-! ### Decoding a frame (R62) -/

/-- Why a frame is none of the six wire commands; the controller's reaction is then undefined (R122). -/
inductive FrameError where
  /-- Chip-select fell and rose with no byte between (the block sends no such frame, R77). -/
  | emptyFrame
  /-- The opcode is none of the six of R62 (R47, R65). -/
  | unassignedOpcode (op : Byte)
  /-- The payload length does not fit the command (R62, R116 to R119). -/
  | payloadLength (op : Byte) (length : Nat)
  deriving DecidableEq, Repr

/-- A command with exactly one payload byte (R116, R117). -/
def decodeOne (make : Byte → Instr) (op : Byte) : List Byte → Except FrameError Instr
  | [b] => .ok (make b)
  | payload => .error (.payloadLength op payload.length)

/-- A command without payload (R118, R119). -/
def decodeBare (i : Instr) (op : Byte) : List Byte → Except FrameError Instr
  | [] => .ok i
  | payload => .error (.payloadLength op payload.length)

/-- The wire command of a frame, by the match and mask of R62; any other frame is rejected by name. -/
def decodeFrame : List Byte → Except FrameError Instr
  | [] => .error .emptyFrame
  | op :: payload =>
    if op &&& 0xF0#8 = opCell then .ok (.cellWrite (op.extractLsb' 0 4) payload)
    else if op &&& 0xF0#8 = opGlyph then
      if payload.length ≤ 5 then .ok (.glyphWrite (op.extractLsb' 0 4) payload)
      else .error (.payloadLength op payload.length)
    else if op = opSetDigits then decodeOne .setDigits op payload
    else if op = opBrightness then decodeOne .setBrightnessCmd op payload
    else if op = opNormal then decodeBare .normal op payload
    else if op = opLampTest then decodeBare .lampTest op payload
    else .error (.unassignedOpcode op)

/-! ### Encoding -/

/-- The frame of a wire command, by the layouts of R56 and the payload column of R62; none for a host operation. -/
def encodeWire : Instr → Option (List Byte)
  | .init => none
  | .initSetDigits => none
  | .initBrightness => none
  | .resetSequence => none
  | .teardown => none
  | .writeChar _ _ => none
  | .writeString _ _ => none
  | .loadCustomFont _ _ => none
  | .setBrightness _ => none
  | .fullTest _ => none
  | .clear => none
  | .cellWrite p codes => some ((0x2#4 ++ p) :: codes)
  | .glyphWrite i bitmap => some ((0x4#4 ++ i) :: bitmap)
  | .setDigits n => some [0xE0#8, n]
  | .setBrightnessCmd v => some [0xE4#8, v]
  | .normal => some [0xE8#8]
  | .lampTest => some [0xE9#8]

/-- The frames of an instruction, each as the bytes between chip-select low and high: the table of R61 for the host level,
R62 for the wire commands. -/
def encode (c : Configuration) : Instr → List (List Byte)
  | .init => [[opSetDigits, digitsPayload c], [opBrightness, maxBrightness]]
  | .initSetDigits => [[opSetDigits, digitsPayload c]]
  | .initBrightness => [[opBrightness, maxBrightness]]
  | .resetSequence => []
  | .teardown => []
  | .writeChar position code => [[cellOpcode position, byteOf code]]
  | .writeString start text => [cellOpcode start :: untilZero (text.map byteOf)]
  | .loadCustomFont id data => [glyphOpcode id :: untilZero (data.map byteOf)]
  | .setBrightness level => [[opBrightness, byteOf level]]
  | .fullTest _ => [[opLampTest], [opNormal]]
  | .clear => [opCell :: blanks c]
  | .cellWrite p codes => [(0x2#4 ++ p) :: codes]
  | .glyphWrite i bitmap => [(0x4#4 ++ i) :: bitmap]
  | .setDigits n => [[opSetDigits, n]]
  | .setBrightnessCmd v => [[opBrightness, v]]
  | .normal => [[opNormal]]
  | .lampTest => [[opLampTest]]

/-! ### The host's table words -/

/-- A word of the opcode table as bytes, the first byte its least significant one. -/
def tableBytes (nbits w : Nat) : List Byte := (List.range (nbits / 8)).map fun j => byteOf (w / 2 ^ (8 * j))

/-- The payload byte that SET_DIGITS and SET_BRIGHTNESS_CMD have above the bits the table gives them is 0; the other
commands are complete with their opcode alone (R62). -/
def padFrame : List Byte → List Byte
  | [op] => if op = opSetDigits ∨ op = opBrightness then [op, 0x00#8] else [op]
  | frame => frame

/-- What `decodeFrame` reads from a word of the opcode table (log 1). -/
def decodeTableWord (nbits w : Nat) : Option Instr :=
  match decodeFrame (padFrame (tableBytes nbits w)) with
  | .ok i => some i
  | .error _ => none

end Sys2Proof
end

