-- ==== Sys2Proof/Machine/State.lean ====
section
/-! DEFINITION. The state of the block as plain data (`10_state.md` R20), the observer's state beside it
(`43_receiver_view.md` R111), the inputs the model holds as data, the outcome types and the state after construction. -/

namespace Sys2Proof.Machine

/-! ### Pins, levels, events -/

/-- The three pins the block drives through the Pin Capability (R25, R144). -/
inductive Pin where
  | cs
  | rst
  | en
  deriving DecidableEq, Repr

/-- A level the block can drive: `L` or `H`. -/
inductive Drive where
  | low
  | high
  deriving DecidableEq, Repr

/-- The recorded level of a pin: `X` (unknown) or the level last driven (R25). -/
inductive Level where
  | unknown
  | driven (d : Drive)
  deriving DecidableEq, Repr

/-- The events of the trace (R18). -/
inductive Event where
  /-- All five pins configured (R82). -/
  | cfgPins
  /-- The transport opened with this clock rate (R83). -/
  | busOpen (clockHz : Nat)
  /-- The transport released (R98). -/
  | busClose
  /-- A pin driven to a level (R25). -/
  | pin (p : Pin) (d : Drive)
  /-- One completed 8-bit transport transaction (R34). -/
  | tx (b : Byte)
  /-- A blocking wait of at least this many milliseconds (R94). -/
  | sleep (ms : Nat)
  deriving DecidableEq, Repr

/-! ### Sequencer positions (R27) -/

/-- The device state (R24). -/
inductive Dev where
  | uninitialized
  | ready
  | destroyed
  deriving DecidableEq, Repr

/-- Positions of the Device Controller. -/
inductive Ctl where
  | cIdle
  | cCfg
  | cOpen
  | cEn
  | cReset
  | cDigits
  | cBright
  | cFrame
  | cWait
  | cFrame2
  | cHalt
  deriving DecidableEq, Repr

/-- Positions of the Reset Sequencer. -/
inductive Rs where
  | rsIdle
  | rsPre
  | rsAssert
  | rsHold
  | rsRelease
  deriving DecidableEq, Repr

/-- Positions of the Command Encoder. -/
inductive Enc where
  | eIdle
  | eAssert
  | eOpcode
  | ePayload
  | eRelease
  deriving DecidableEq, Repr

/-- Frame shapes (R55). -/
inductive Shape where
  | f0
  | f1
  | fn
  deriving DecidableEq, Repr

/-! ### Faults the block records (R126, R133) -/

/-- The six faults of the block (R126). -/
inductive FaultKind where
  | fatalPinConfig
  | fatalBusOpen
  | notReady
  | useAfterTeardown
  | txError
  | pinSetError
  deriving DecidableEq, Repr

/-- The spec's code of a fault (R126). -/
def FaultKind.code : FaultKind → Nat
  | .fatalPinConfig => 1
  | .fatalBusOpen => 2
  | .notReady => 3
  | .useAfterTeardown => 4
  | .txError => 5
  | .pinSetError => 6

/-- The sequencer position at which a fault is raised: `ctl`, and `rs` or `enc` if one was running (R133). -/
inductive Position where
  | controller (ctl : Ctl)
  | resetSequencer (ctl : Ctl) (rs : Rs)
  | encoder (ctl : Ctl) (enc : Enc)
  deriving DecidableEq, Repr

/-- What a fault records: `(code, req, step)` (R133). -/
structure FaultRecord where
  kind : FaultKind
  req : Option Request
  step : Position
  deriving DecidableEq, Repr

/-! ### The observer (R111) -/

/-- The observer state `rx`: what the spec says each wire command does at the display controller; `none` is the unknown
value `⊥`. No rule of the block reads it (R36). -/
structure Rx where
  cell : Vector (Option Byte) 16
  cgram : Vector (Vector (Option Byte) 5) 16
  digits : Option Nat
  bright : Option Byte
  lamp : Option Bool
  undef : Bool
  deriving DecidableEq, Repr

/-- Every field `⊥` and `undef = false` (R112). -/
def Rx.initial : Rx where
  cell := Vector.replicate 16 none
  cgram := Vector.replicate 16 (Vector.replicate 5 none)
  digits := none
  bright := none
  lamp := none
  undef := false

/-! ### Outcomes -/

/-- Why a step of the model stops with a fault. -/
inductive Fault where
  /-- Raised by a step, and by a host operation, when the block has recorded the fault `r`: "no sequencer of the block has a
  step and no host operation, `teardown()` included, is accepted" (R139). The model stops where the block is stuck, so the
  difference is safe (log 9). -/
  | halted (r : FaultRecord)
  /-- Raised by a step whose sequencer position has no row in the spec's tables (R74, R89, R93, R109). No run from
  construction reaches such a position; stopping there is safe (log 10). -/
  | noRow
  deriving DecidableEq, Repr

/-- Why the model refuses an instruction. -/
inductive Refusal where
  /-- Raised by `exec` alone, for an instruction without a meaning; no arm answers it. Safe. -/
  | notModelled (mnemonic : String)
  /-- Raised by construction with an ill-formed Configuration (R131). Safe. -/
  | badConfig
  /-- Raised by a host operation with an argument outside its type (R132). Safe. -/
  | badArgument
  /-- Raised by a host operation asked for while the block is not at `C_IDLE`: "The block accepts a new host operation only
  when `ctl = C_IDLE`" (R27). Safe (log 13). -/
  | busy
  /-- Raised by RESET_SEQUENCE, INIT_SET_DIGITS and INIT_BRIGHTNESS away from their step of `init()`: "re-running it at any
  other time is not part of the public contract" (R95). Safe (log 13). -/
  | notAtItsStep
  deriving DecidableEq, Repr

/-- The state: the block's fields in the order of R20, then the observer, then the model's own inputs. -/
structure State where
  /-- The Configuration (R21). -/
  cfg : Configuration
  /-- The device state (R24). -/
  dev : Dev
  /-- Step 1 of `init()` has succeeded (R26). -/
  pinsCfg : Bool
  /-- The transport handle is open (R26). -/
  busOpen : Bool
  /-- Level of chip-select (R25). -/
  lvlCs : Level
  /-- Level of the reset pin (R25). -/
  lvlRst : Level
  /-- Level of the enable pin (R25). -/
  lvlEn : Level
  /-- Controller position (R27). -/
  ctl : Ctl
  /-- Reset-sequencer position (R27). -/
  rs : Rs
  /-- Encoder position (R27). -/
  enc : Enc
  /-- The controller has started the sub-sequencer of its position: "not yet started" and "done" in the rows of R89 and
  R109. DEDUCED, safe (log 5). -/
  started : Bool
  /-- The host operation being run (R20, R100). -/
  req : Option Request
  /-- Shape of the command being sent (R29). -/
  encShape : Shape
  /-- Opcode of the command being sent (R29). -/
  encOp : Byte
  /-- Payload copied when the command was started (R29). -/
  encBuf : List Byte
  /-- Payload bytes sent (R29). -/
  encIdx : Nat
  /-- The fault recorded (R30). -/
  fault : Option FaultRecord
  /-- Every event since construction (R31). -/
  trace : List Event
  /-- The observer (R111). -/
  rx : Rx
  /-- The bytes of the frame the observer is in (R113). DEDUCED, safe (log 14). -/
  rxFrame : Option (List Byte)
  /-- The requests the one host agent will still make, next first (R148). The model's own input (log 2). -/
  calls : List Request
  /-- Placed answers of the coming capability calls, next first: true is success. The model's own input (log 7). -/
  results : List Bool
  /-- How many free draws were taken where no answer was placed. The model's own counter (log 7). -/
  drawn : Nat
  deriving DecidableEq, Repr

/-- The state at construction with `c` (R79, R151), waiting for the calls and with the capability answers given. The encoder
registers are unspecified there and unread: DESIGN CHOICE, unsafe (log 4). -/
def State.initial (c : Configuration) (calls : List Request) (results : List Bool) : State where
  cfg := c
  dev := .uninitialized
  pinsCfg := false
  busOpen := false
  lvlCs := .unknown
  lvlRst := .unknown
  lvlEn := .unknown
  ctl := .cIdle
  rs := .rsIdle
  enc := .eIdle
  started := false
  req := none
  encShape := .f0
  encOp := 0x00#8
  encBuf := []
  encIdx := 0
  fault := none
  trace := []
  rx := Rx.initial
  rxFrame := none
  calls := calls
  results := results
  drawn := 0

/-- The block right after construction: no call placed, no capability answer placed. Its Configuration is a DESIGN CHOICE
(log 3). -/
def State.reset : State := State.initial Config.resetConfiguration [] []

end Sys2Proof.Machine
end

