-- ==== Sys2Proof/Machine/Receiver.lean ====
section
/-! DEFINITION. The observer: the effect of each wire command on `rx`, undefined frames, what the display shows, and `rx`
as a function of the trace (`43_receiver_view.md`). -/

namespace Sys2Proof.Machine

/-! ### Reading `rx` -/

/-- The code cell `p` holds, `none` where it is unknown or there is no such cell (R111). -/
def Rx.cellAt (rx : Rx) (p : Nat) : Option Byte := (rx.cell[p]?).getD none

/-- Byte `j` of custom glyph slot `i`, `none` where it is unknown or there is no such byte (R111). -/
def Rx.glyphAt (rx : Rx) (i j : Nat) : Option Byte :=
  match rx.cgram[i]? with
  | some slot => (slot[j]?).getD none
  | none => none

/-! ### Losing knowledge -/

/-- Every field but `undef` becomes `⊥`: what `Pin(RST, L)` does (R112). -/
def Rx.forget (rx : Rx) : Rx := { Rx.initial with undef := rx.undef }

/-- An undefined frame: `undef` is set and every other field becomes `⊥` (R122). -/
def Rx.undefined (rx : Rx) : Rx := { rx.forget with undef := true }

/-- The effect of a frame at the controller, once nothing undefined has occurred. After an undefined frame every field stays
`⊥`, whatever is sent: R114 to R119 name no such condition, and the end state of program P4 (`95_test_vectors.md`) has it.
DEDUCED, safe (log 28). -/
def Rx.whileDefined (effect : Rx → Rx) (rx : Rx) : Rx := if rx.undef then rx.undefined else effect rx

/-! ### The six wire commands -/

/-- `cell[p + j] <- c[j]` for each `j < k` (R114). -/
def writeRun (cell : Vector (Option Byte) 16) (p : Nat) : List Byte → Vector (Option Byte) 16
  | [] => cell
  | code :: codes => writeRun (cell.setIfInBounds p (some code)) (p + 1) codes

/-- CELL_WRITE: defined only when the digit count is known, the position lies below it and `p + k` does not pass it (R114;
that an empty write at the digit count is undefined is log 15). -/
def Rx.cellWrite (p : Nibble) (codes : List Byte) (rx : Rx) : Rx :=
  rx.whileDefined fun rx =>
    match rx.digits with
    | some d =>
      if p.toNat < d ∧ p.toNat + codes.length ≤ d then { rx with cell := writeRun rx.cell p.toNat codes }
      else rx.undefined
    | none => rx.undefined

/-- The slot after an upload of `bitmap`: the bytes sent, and `⊥` where none was sent (R115). -/
def glyphSlot (bitmap : List Byte) : Vector (Option Byte) 5 :=
  #v[bitmap[0]?, bitmap[1]?, bitmap[2]?, bitmap[3]?, bitmap[4]?]

/-- GLYPH_WRITE of at most five bytes; a longer payload does not fit the command (R115, R62, log 16). -/
def Rx.glyphWrite (i : Nibble) (bitmap : List Byte) (rx : Rx) : Rx :=
  rx.whileDefined fun rx =>
    if bitmap.length ≤ 5 then { rx with cgram := rx.cgram.setIfInBounds i.toNat (glyphSlot bitmap) } else rx.undefined

/-- SET_DIGITS: the payload is the digit count less one, `0x00` to `0x0F` (R116). -/
def Rx.setDigits (n : Byte) (rx : Rx) : Rx :=
  rx.whileDefined fun rx => if n.toNat ≤ 0x0F then { rx with digits := some (n.toNat + 1) } else rx.undefined

/-- SET_BRIGHTNESS: every value is defined (R117). -/
def Rx.setBrightness (v : Byte) (rx : Rx) : Rx := rx.whileDefined fun rx => { rx with bright := some v }

/-- LAMP_TEST: all segments on (R118). -/
def Rx.lampTest (rx : Rx) : Rx := rx.whileDefined fun rx => { rx with lamp := some true }

/-- NORMAL: rendering driven by prior writes (R119). -/
def Rx.normal (rx : Rx) : Rx := rx.whileDefined fun rx => { rx with lamp := some false }

/-- The effect of a wire command on `rx`; a host operation has none of its own. -/
def Rx.apply (i : Instr) (rx : Rx) : Rx :=
  match i with
  | .init => rx
  | .initSetDigits => rx
  | .initBrightness => rx
  | .resetSequence => rx
  | .teardown => rx
  | .writeChar _ _ => rx
  | .writeString _ _ => rx
  | .loadCustomFont _ _ => rx
  | .setBrightness _ => rx
  | .fullTest _ => rx
  | .clear => rx
  | .cellWrite p codes => rx.cellWrite p codes
  | .glyphWrite i bitmap => rx.glyphWrite i bitmap
  | .setDigits n => rx.setDigits n
  | .setBrightnessCmd v => rx.setBrightness v
  | .normal => rx.normal
  | .lampTest => rx.lampTest

/-- The bytes of a whole frame at the observer: their wire command, or an undefined frame (R113, R122). -/
def Rx.receive (frame : List Byte) (rx : Rx) : Rx :=
  match decodeFrame frame with
  | .ok i => rx.apply i
  | .error _ => rx.undefined

/-! ### Out-of-range arguments (R59) -/

/-- The operation has an argument outside its documented range: a position or start "from `cfg.digits`" upward (R59), a font
identifier outside 0 to 15 (R105, U4). Every other argument is in range at every value of its type. -/
def Request.outOfRange (c : Configuration) : Request → Bool
  | .init => false
  | .teardown => false
  | .writeChar position _ => decide (c.digits.toNat ≤ position)
  | .writeString start _ => decide (c.digits.toNat ≤ start)
  | .loadCustomFont id _ => decide (15 < id)
  | .setBrightness _ => false
  | .fullTest _ => false
  | .clear => false

/-- A whole frame at the observer. Where an out-of-range argument made it, "the display controller's reaction is undefined" (R59,
D3, D14, U2, U4), also when its bytes are those of another command; otherwise its bytes decide. DEDUCED, safe (log 29). -/
def Rx.receiveFrom (misaddressed : Bool) (frame : List Byte) (rx : Rx) : Rx :=
  if misaddressed then rx.undefined else rx.receive frame

/-! ### The observer along a trace -/

/-- Which event makes the observer forget: the reset pin driven low (R112). -/
def Rx.onEvent (e : Event) (rx : Rx) : Rx :=
  match e with
  | .pin .rst .low => rx.forget
  | _ => rx

/-- The bytes of the frame the observer is in: a frame begins at `Pin(CS, L)` and gathers the `Tx` events after it (R113). -/
def captureEvent (e : Event) (frame : Option (List Byte)) : Option (List Byte) :=
  match e with
  | .pin .cs .low => some []
  | .tx b => frame.map fun bytes => bytes ++ [b]
  | _ => frame

/-- `rx` with the frame being captured. -/
structure Observer where
  rx : Rx
  frame : Option (List Byte)
  deriving DecidableEq, Repr

/-- One event at the observer: a frame is applied "when its `Pin(CS, H)` is reached" (R113). -/
def Observer.event (o : Observer) (e : Event) : Observer :=
  match e with
  | .pin .cs .high =>
    match o.frame with
    | some bytes => ⟨o.rx.receive bytes, none⟩
    | none => o
  | _ => ⟨o.rx.onEvent e, captureEvent e o.frame⟩

/-- The observer of a trace, from construction on (R111, R112), every frame judged by its bytes: a trace does not show the
arguments. -/
def Observer.ofTrace (trace : List Event) : Observer := trace.foldl Observer.event ⟨Rx.initial, none⟩

/-- A fault inside a frame cuts it short: it is not applied, and it is undefined (R113, R122). -/
def Observer.cut (o : Observer) : Observer :=
  ⟨if o.frame.isSome then o.rx.undefined else o.rx, none⟩

/-! ### What the display shows (R120) -/

/-- What is shown at a cell, as far as the spec gives it. -/
inductive Shown where
  /-- Every segment on: lamp test. -/
  | allSegments
  /-- A custom glyph, with the five bytes of its slot. -/
  | custom (bitmap : List Byte)
  /-- The built-in glyph of a code in `0x30` to `0x3F`. -/
  | builtIn (code : Byte)
  /-- Blank. -/
  | blank
  /-- Not given by the spec. -/
  | notGiven
  deriving DecidableEq, Repr

/-- The five bytes of a slot, when all are known. -/
def Rx.bitmap (rx : Rx) (i : Nat) : Option (List Byte) :=
  match rx.glyphAt i 0, rx.glyphAt i 1, rx.glyphAt i 2, rx.glyphAt i 3, rx.glyphAt i 4 with
  | some b0, some b1, some b2, some b3, some b4 => some [b0, b1, b2, b3, b4]
  | _, _, _, _, _ => none

/-- What a code shows when the lamp test is off (R66, R120). -/
def Rx.showCode (rx : Rx) (code : Byte) : Shown :=
  if code.toNat ≤ 0x07 then
    match rx.bitmap code.toNat with
    | some bytes => .custom bytes
    | none => .notGiven
  else if 0x30 ≤ code.toNat ∧ code.toNat ≤ 0x3F then .builtIn code
  else if code = blankCode then .blank
  else .notGiven

/-- What cell `p` shows (R120). Where the spec gives nothing (an undefined frame has occurred, R122; lamp unknown; a cell beyond
the digit count; an unknown field on the way; another code), that is what this says. -/
def Rx.shown (rx : Rx) (p : Nat) : Shown :=
  if rx.undef then .notGiven
  else
    match rx.lamp with
    | some true => if p < 16 then .allSegments else .notGiven
    | some false =>
      match rx.digits, rx.cellAt p with
      | some d, some code => if p < d then rx.showCode code else .notGiven
      | _, _ => .notGiven
    | none => .notGiven

end Sys2Proof.Machine
end

