-- ==== Sys2Proof/Machine/Ops.lean ====
section
/-! DEFINITION. The operations every row and every instruction is built from: emitting an event, drawing the answer of a
capability call, driving a pin, transmitting a byte, sleeping, configuring, opening and closing (`00_scope.md` R18), and
taking a fault (`60_exceptions.md` R137). There is no return from a fault (R139), so none is written. -/

namespace Sys2Proof.Machine

/-! ### Plain updates -/

/-- `Emit(e)`: append to the trace (R18, R31). The observer follows the event; the end of a frame is `State.deliver`. -/
def State.emit (e : Event) (s : State) : State :=
  { s with trace := s.trace ++ [e], rx := s.rx.onEvent e, rxFrame := captureEvent e s.rxFrame }

/-- The recorded level of a pin (R25). -/
def State.level (s : State) : Pin → Level
  | .cs => s.lvlCs
  | .rst => s.lvlRst
  | .en => s.lvlEn

/-- `lvl_p <- lv` (R25). -/
def State.setLevel (p : Pin) (lv : Level) (s : State) : State :=
  match p with
  | .cs => { s with lvlCs := lv }
  | .rst => { s with lvlRst := lv }
  | .en => { s with lvlEn := lv }

/-- The identifier of the pin that a `Pin` event drives (R21, R144). -/
def pinId (c : Configuration) : Pin → Nat
  | .cs => c.pinCs
  | .rst => c.pinRst
  | .en => c.pinEn

/-- The sequencer position a fault records: `ctl`, and `rs` or `enc` if one is running (R133). -/
def State.position (s : State) : Position :=
  match s.enc, s.rs with
  | .eIdle, .rsIdle => .controller s.ctl
  | .eIdle, rs => .resetSequencer s.ctl rs
  | enc, _ => .encoder s.ctl enc

/-- The frame being sent is that of an operation with an out-of-range argument (R59). -/
def State.misaddressed (s : State) : Bool := decide (s.ctl = .cFrame) && s.req.any (Request.outOfRange s.cfg)

/-- The observer's frame is complete: apply it (R113, R59). -/
def State.deliver (s : State) : State :=
  match s.rxFrame with
  | some bytes => { s with rx := s.rx.receiveFrom s.misaddressed bytes, rxFrame := none }
  | none => s

/-! ### Taking a fault -/

/-- Fault entry (R137): record `(code, req, step)` (R133), go to `C_HALT`, and leave everything else as it is. A frame the
fault falls into is cut short for the observer (R113, R122). -/
def State.raise (k : FaultKind) (s : State) : State :=
  { s with
    fault := some ⟨k, s.req, s.position⟩
    ctl := .cHalt
    rx := if s.rxFrame.isSome then s.rx.undefined else s.rx
    rxFrame := none }

/-! ### Sequencing -/

/-- Go on only when no fault is set (R30, R139). -/
def State.andThen (s : State) (f : State → State) : State :=
  match s.fault with
  | none => f s
  | some _ => s

/-- Run the parts of an operation in order, up to the first fault (R136: "The first fault ends the run"). -/
def State.runAll (s : State) : List (State → State) → State
  | [] => s
  | f :: fs => (s.andThen f).runAll fs

/-! ### Capability calls (D21) -/

/-- The answer of the capability call made now: the next placed answer, or a free draw. -/
def State.callResult (s : State) : Bool :=
  match s.results with
  | r :: _ => r
  | [] => Config.callSucceeds s.drawn

/-- The answer has been taken. -/
def State.takeResult (s : State) : State :=
  match s.results with
  | _ :: rest => { s with results := rest }
  | [] => { s with drawn := s.drawn + 1 }

/-- A capability call: what follows when it succeeds and when it fails. -/
def State.attempt (s : State) (onSuccess onFailure : State → State) : State :=
  if s.callResult then onSuccess s.takeResult else onFailure s.takeResult

/-- `SetPin(p, d)`: a successful call sets the level and emits `Pin(p, d)`, whatever the level was (R25); a failing one emits
nothing, leaves the level unknown and raises PinSetError (R130). -/
def State.setPin (p : Pin) (d : Drive) (s : State) : State :=
  s.attempt (fun t => (t.setLevel p (.driven d)).emit (.pin p d))
    (fun t => (t.setLevel p .unknown).raise .pinSetError)

/-- `Tx(b)` over the open handle (R34); a failing call emits nothing and raises TxError (R130). Without a handle there is
nothing to transmit on, which is a failing call too (R20 "read by ... `Tx`", log 11). -/
def State.tx (b : Byte) (s : State) : State :=
  if s.busOpen then s.attempt (fun t => t.emit (.tx b)) (fun t => t.raise .txError)
  else s.raise .txError

/-- `Sleep(ms)`, which cannot fail (R147). -/
def State.sleep (ms : Nat) (s : State) : State := s.emit (.sleep ms)

/-- `CfgPins()`: step 1 of `init()` (R82). -/
def State.cfgPins (s : State) : State :=
  s.attempt (fun t => { t.emit .cfgPins with pinsCfg := true }) (fun t => t.raise .fatalPinConfig)

/-- `BusOpen()`: step 2 of `init()` (R83). -/
def State.openBus (s : State) : State :=
  s.attempt (fun t => { t.emit (.busOpen t.cfg.clockHz) with busOpen := true }) (fun t => t.raise .fatalBusOpen)

/-- Release the handle if it was opened; `close` cannot fail (R98, R147). -/
def State.closeBus (s : State) : State :=
  if s.busOpen then { s.emit .busClose with busOpen := false } else s

end Sys2Proof.Machine
end

