-- ==== Sys2Proof/Machine/Flags.lean ====
section
/-! DEFINITION. The block has no status flags or condition codes; the values that play that part are `dev`, `bus_open` and
`fault` (`10_state.md` R32). Here stand the conditions the rules test on them and on the sequencer positions. -/

namespace Sys2Proof.Machine

/-- Both sub-sequencers are at rest, so the controller may step (R28). -/
def State.subIdle (s : State) : Bool := decide (s.rs = .rsIdle) && decide (s.enc = .eIdle)

/-- The block waits at `C_IDLE` for a request (R27, R153). -/
def State.idle (s : State) : Bool := decide (s.ctl = .cIdle) && s.subIdle && !s.started

/-- The controller is at position `c` of `init()` and has not started its sub-sequencer (R89, "not yet started"). -/
def State.atStep (c : Ctl) (s : State) : Bool := decide (s.ctl = c) && s.subIdle && !s.started

/-- Chip-select is asserted: "`lvl_cs = L` with `enc` away from `E_IDLE`" (R33). -/
def State.csAsserted (s : State) : Bool := decide (s.lvlCs = .driven .low) && !decide (s.enc = .eIdle)

end Sys2Proof.Machine
end

