-- ==== Sys2Proof/Machine/Operands.lean ====
section
/-! DEFINITION. Operand forms: from the arguments of an operation to the command the encoder is started with
(`30_encoding.md` R57 to R61, `40_framing.md` R69). -/

namespace Sys2Proof.Machine

/-- A command `(shape, op, payload)`: empty payload for F0, one byte for F1, any sequence for FN (R69). -/
inductive Command where
  | f0 (op : Byte)
  | f1 (op b : Byte)
  | fn (op : Byte) (p : List Byte)
  deriving DecidableEq, Repr

/-- The command's shape. -/
def Command.shape : Command → Shape
  | .f0 _ => .f0
  | .f1 _ _ => .f1
  | .fn _ _ => .fn

/-- The command's opcode. -/
def Command.op : Command → Byte
  | .f0 op => op
  | .f1 op _ => op
  | .fn op _ => op

/-- The command's payload. -/
def Command.payload : Command → List Byte
  | .f0 _ => []
  | .f1 _ b => [b]
  | .fn _ p => p

/-- Step 5 of `init()` (R85). -/
def initSetDigitsCommand (c : Configuration) : Command := .f1 opSetDigits (digitsPayload c)

/-- Step 6 of `init()` (R86). -/
def initBrightnessCommand : Command := .f1 opBrightness maxBrightness

/-- `write_char(position, code)` (R103). -/
def writeCharCommand (position code : Nat) : Command := .f1 (cellOpcode position) (byteOf code)

/-- `write_string(start, text)` (R104). -/
def writeStringCommand (start : Nat) (text : List Nat) : Command := .fn (cellOpcode start) (text.map byteOf)

/-- `load_custom_font({id, data})` (R105). -/
def loadCustomFontCommand (id : Nat) (data : List Nat) : Command := .fn (glyphOpcode id) (data.map byteOf)

/-- `set_brightness(level)` (R106). -/
def setBrightnessCommand (level : Nat) : Command := .f1 opBrightness (byteOf level)

/-- The first frame of `full_test` (R107). -/
def lampTestCommand : Command := .f0 opLampTest

/-- The second frame of `full_test` (R107). -/
def normalCommand : Command := .f0 opNormal

/-- `clear()`: spaces from cell 0, as many as the digit count (R108). -/
def clearCommand (c : Configuration) : Command := .fn opCell (blanks c)

/-- The first frame of a display operation, which `C_FRAME` starts (R109). -/
def Request.firstCommand (c : Configuration) : Request → Option Command
  | .init => none
  | .teardown => none
  | .writeChar position code => some (writeCharCommand position code)
  | .writeString start text => some (writeStringCommand start text)
  | .loadCustomFont id data => some (loadCustomFontCommand id data)
  | .setBrightness level => some (setBrightnessCommand level)
  | .fullTest _ => some lampTestCommand
  | .clear => some (clearCommand c)

end Sys2Proof.Machine
end

