-- ==== Sys2Proof/Machine/Encoder.lean ====
section
/-! DEFINITION. The Command Encoder: one definition per row of its table (`40_framing.md` R74), and a whole frame as those
rows in order (R71 to R73). -/

namespace Sys2Proof.Machine

/-! ### Rows -/

/-- Row `E_IDLE`: the controller starts the encoder with a command; the payload is copied (R29, R69). -/
def startEncoder (c : Command) (s : State) : State :=
  { s with encShape := c.shape, encOp := c.op, encBuf := c.payload, enc := .eAssert, started := true }

/-- Row `E_ASSERT`: chip-select low. -/
def encAssert (s : State) : State := (s.setPin .cs .low).andThen fun t => { t with enc := .eOpcode }

/-- Where the encoder goes after the opcode: F0 has no payload; otherwise `enc_idx <- 0`. -/
def afterOpcode (s : State) : State :=
  match s.encShape with
  | .f0 => { s with enc := .eRelease }
  | .f1 => { s with enc := .ePayload, encIdx := 0 }
  | .fn => { s with enc := .ePayload, encIdx := 0 }

/-- Rows `E_OPCODE`. -/
def encOpcode (s : State) : State := (s.tx s.encOp).andThen afterOpcode

/-- Row `E_PAYLOAD`, shape F1: the one byte, zero or not (R72). -/
def encSingle (b : Byte) (s : State) : State := (s.tx b).andThen fun t => { t with encIdx := 1, enc := .eRelease }

/-- Row `E_PAYLOAD`, shape FN, a byte that is not zero. -/
def encNext (b : Byte) (s : State) : State := (s.tx b).andThen fun t => { t with encIdx := t.encIdx + 1 }

/-- Row `E_PAYLOAD`, shape FN, at the end of the payload or at a zero byte: no event. -/
def encStop (s : State) : State := { s with enc := .eRelease }

/-- Row `E_RELEASE` at the block: chip-select high, the frame is done. The observer has the frame's bytes. -/
def releaseCs (s : State) : State := (s.setPin .cs .high).andThen fun t => { t with enc := .eIdle }

/-- Row `E_RELEASE` with the observer, which applies the frame at its `Pin(CS, H)` (R113). -/
def encRelease (s : State) : State := (releaseCs s).andThen State.deliver

/-! ### Whole frames -/

/-- The payload loop of FN: "stopping immediately ... at the first byte whose value is zero" (R73). -/
def sendUntilZero : List Byte → State → State
  | [], s => encStop s
  | b :: p, s => if b = terminator then encStop s else (encNext b s).andThen (sendUntilZero p)

/-- The payload part of a frame. -/
def sendPayload : Command → List (State → State)
  | .f0 _ => []
  | .f1 _ b => [encSingle b]
  | .fn _ p => [sendUntilZero p]

/-- `Frame(s, op, p)`: start the encoder and wait for it (R80). -/
def frame (c : Command) (s : State) : State :=
  s.runAll ([startEncoder c, encAssert, encOpcode] ++ sendPayload c ++ [encRelease])

/-- The bytes a command puts between chip-select low and high (R55). -/
def Command.bytes : Command → List Byte
  | .f0 op => [op]
  | .f1 op b => [op, b]
  | .fn op p => op :: untilZero p

/-- The events of a frame: `[CS↓ HH HH ... CS↑]` (R19). -/
def frameEvents (bytes : List Byte) : List Event :=
  [.pin .cs .low] ++ bytes.map Event.tx ++ [.pin .cs .high]

/-! ### A frame ready to be received -/

/-- The block about to release chip-select with `bytes` on the observer's side, and an answer placed for that one call: the
next step ends this frame. No request stands behind it (log 2). -/
def State.holdFrame (bytes : List Byte) (s : State) : State :=
  { s with fault := none, rs := .rsIdle, enc := .eRelease, req := none, rxFrame := some bytes, results := true :: s.results }

end Sys2Proof.Machine
end

