-- ==== Sys2Proof/Machine/Admission.lean ====
section
/-! DEFINITION. Accepting a request at `C_IDLE` (`42_display_ops.md` R100, `41_lifecycle.md` R89 and R98) and running an
accepted operation to its end. -/

namespace Sys2Proof.Machine

/-- `req <- (operation, arguments)` (R100). -/
def latch (r : Request) (s : State) : State := { s with req := some r }

/-- An operation ends at `C_IDLE`; nothing of its operands is kept (R20, R110, log 6). -/
def opDone (s : State) : State := { s with ctl := .cIdle, started := false, req := none }

/-- Row `C_IDLE` for a display operation: Destroyed is checked before Uninitialized (R100, R128, R129, R136). -/
def acceptDisplay (r : Request) (s : State) : State :=
  match s.dev with
  | .destroyed => (latch r s).raise .useAfterTeardown
  | .uninitialized => (latch r s).raise .notReady
  | .ready => { latch r s with ctl := .cFrame }

/-- Rows `C_IDLE` for `init()`: in Ready it "emits no event and writes no field" (R81, R89). -/
def acceptInit (s : State) : State :=
  match s.dev with
  | .destroyed => (latch .init s).raise .useAfterTeardown
  | .ready => s
  | .uninitialized => { latch .init s with ctl := .cCfg }

/-- `teardown()`: release the handle if it was opened, then Destroyed; one step, at most one event (R98). -/
def acceptTeardown (s : State) : State := { s.closeBus with dev := .destroyed }

/-- The controller's row `C_IDLE` for a request. -/
def accept (r : Request) (s : State) : State :=
  match r with
  | .init => acceptInit s
  | .teardown => acceptTeardown s
  | .writeChar position code => acceptDisplay (.writeChar position code) s
  | .writeString start text => acceptDisplay (.writeString start text) s
  | .loadCustomFont id data => acceptDisplay (.loadCustomFont id data) s
  | .setBrightness level => acceptDisplay (.setBrightness level) s
  | .fullTest durationMs => acceptDisplay (.fullTest durationMs) s
  | .clear => acceptDisplay .clear s

/-- A request arrives: a halted block takes no step (R139), a block that is not at `C_IDLE` accepts none (R27), a call with
an ill-typed argument is refused before it starts (R132); otherwise `taken` is what accepting it does (log 12). -/
def request (r : Request) (taken : State → State) (s : State) : Host.Outcome State Fault Refusal :=
  match s.fault with
  | some f => .fault (.halted f)
  | none =>
    if s.idle then
      if r.wf then .next (taken s) else .refused .badArgument
    else .refused .busy

/-- A whole display operation: accepted, then its parts up to the first fault, then back to `C_IDLE` (R103 to R110). -/
def displayOp (r : Request) (parts : List (State → State)) (s : State) : Host.Outcome State Fault Refusal :=
  request r (fun t => t.runAll ([acceptDisplay r] ++ parts ++ [opDone])) s

end Sys2Proof.Machine
end

