-- ==== Sys2Proof/Machine/Display.lean ====
section
/-! DEFINITION. The six display operations (`42_display_ops.md` R103 to R108). -/

namespace Sys2Proof.Machine

/-- Row `C_FRAME` of `full_test`, encoder done (R109). -/
def firstFrameDone (s : State) : State := { s with ctl := .cWait, started := false }

/-- Row `C_WAIT`: `Sleep(duration_ms)` (R109). -/
def waitRow (durationMs : Nat) (s : State) : State := { s.sleep durationMs with ctl := .cFrame2 }

/-- WRITE_CHAR (R103). -/
def execWriteChar (position code : Nat) (s : State) : Host.Outcome State Fault Refusal :=
  displayOp (.writeChar position code) [frame (writeCharCommand position code)] s

/-- WRITE_STRING (R104). -/
def execWriteString (start : Nat) (text : List Nat) (s : State) : Host.Outcome State Fault Refusal :=
  displayOp (.writeString start text) [frame (writeStringCommand start text)] s

/-- LOAD_CUSTOM_FONT (R105). -/
def execLoadCustomFont (id : Nat) (data : List Nat) (s : State) : Host.Outcome State Fault Refusal :=
  displayOp (.loadCustomFont id data) [frame (loadCustomFontCommand id data)] s

/-- SET_BRIGHTNESS (R106). -/
def execSetBrightness (level : Nat) (s : State) : Host.Outcome State Fault Refusal :=
  displayOp (.setBrightness level) [frame (setBrightnessCommand level)] s

/-- FULL_TEST (R107). -/
def execFullTest (durationMs : Nat) (s : State) : Host.Outcome State Fault Refusal :=
  displayOp (.fullTest durationMs)
    [frame lampTestCommand, firstFrameDone, waitRow durationMs, frame normalCommand] s

/-- CLEAR (R108). -/
def execClear (s : State) : Host.Outcome State Fault Refusal :=
  displayOp .clear [frame (clearCommand s.cfg)] s

end Sys2Proof.Machine
end

