-- ==== Sys2Proof/Machine/ResetSequencer.lean ====
section
/-! DEFINITION. The Reset Sequencer: one definition per row of its table (`41_lifecycle.md` R93), the whole sequence as those
rows in order (R92), and the meaning of RESET_SEQUENCE. -/

namespace Sys2Proof.Machine

/-- "wait 2 ms" (R92): the one place of that literal. -/
def resetWaitMs : Nat := 2

/-- Row `RS_IDLE`: started by the controller at `C_RESET`. -/
def startReset (s : State) : State := { s with rs := .rsPre, started := true }

/-- Row `RS_PRE`. -/
def rsPreRow (s : State) : State := { s.sleep resetWaitMs with rs := .rsAssert }

/-- Row `RS_ASSERT`: reset low. -/
def rsAssertRow (s : State) : State := (s.setPin .rst .low).andThen fun t => { t with rs := .rsHold }

/-- Row `RS_HOLD`. -/
def rsHoldRow (s : State) : State := { s.sleep resetWaitMs with rs := .rsRelease }

/-- Row `RS_RELEASE`: reset high, done. -/
def rsReleaseRow (s : State) : State := (s.setPin .rst .high).andThen fun t => { t with rs := .rsIdle }

/-- `ResetSequence()`: "wait 2 ms → drive reset pin low → wait 2 ms → drive reset pin high" (R92). -/
def resetPulse (s : State) : State := s.runAll [startReset, rsPreRow, rsAssertRow, rsHoldRow, rsReleaseRow]

/-- A step of `init()` run as an instruction: it has its effect at its own step and is refused elsewhere (R70, R95). -/
def atItsStep (c : Ctl) (effect : State → State) (s : State) : Host.Outcome State Fault Refusal :=
  match s.fault with
  | some r => .fault (.halted r)
  | none => if s.atStep c then .next (effect s) else .refused .notAtItsStep

/-- RESET_SEQUENCE, step 4 of `init()` (R88, R92). -/
def execResetSequence (s : State) : Host.Outcome State Fault Refusal := atItsStep .cReset resetPulse s

end Sys2Proof.Machine
end

