-- ==== Sys2Proof/Machine/Lifecycle.lean ====
section
/-! DEFINITION. Construction, `init()` and `teardown()` (`41_lifecycle.md`): one definition per row of the bring-up table
(R89) and the meanings of INIT, INIT_SET_DIGITS, INIT_BRIGHTNESS and TEARDOWN. -/

namespace Sys2Proof.Machine

/-- Construction: an ill-formed Configuration is refused and gives no block (R79, R131). -/
def construct (c : Configuration) : Host.Outcome State Fault Refusal :=
  if c.wf then .next (State.initial c [] []) else .refused .badConfig

/-! ### Rows of bring-up (R89) -/

/-- Rows `C_CFG`: step 1 (R82). -/
def cfgRow (s : State) : State := s.cfgPins.andThen fun t => { t with ctl := .cOpen }

/-- Rows `C_OPEN`: step 2 (R83). -/
def openRow (s : State) : State := s.openBus.andThen fun t => { t with ctl := .cEn }

/-- Row `C_EN`: step 3 (R84). -/
def enRow (s : State) : State := (s.setPin .en .high).andThen fun t => { t with ctl := .cReset }

/-- Row `C_RESET`, reset sequencer done. -/
def resetDone (s : State) : State := { s with ctl := .cDigits, started := false }

/-- Row `C_DIGITS`, encoder done. -/
def digitsDone (s : State) : State := { s with ctl := .cBright, started := false }

/-- Row `C_BRIGHT`, encoder done: only now `dev <- Ready` (R87). -/
def brightDone (s : State) : State := opDone { s with dev := .ready }

/-! ### Meanings -/

/-- Step 5: the digit-count frame (R85). -/
def sendDigits (s : State) : State := frame (initSetDigitsCommand s.cfg) s

/-- Step 6: the brightness frame, without the Ready check (R86). -/
def sendBrightness (s : State) : State := frame initBrightnessCommand s

/-- The six steps, once `init()` has been accepted in Uninitialized (R80). -/
def bringUp (s : State) : State :=
  s.runAll [cfgRow, openRow, enRow, resetPulse, resetDone, sendDigits, digitsDone, sendBrightness, brightDone]

/-- `init()` from its acceptance on: in Ready it is over at once (R81). -/
def initCall (s : State) : State :=
  (acceptInit s).andThen fun t => if t.ctl = .cCfg then bringUp t else t

/-- INIT (R80). -/
def execInit (s : State) : Host.Outcome State Fault Refusal := request .init initCall s

/-- INIT_SET_DIGITS, step 5 of `init()` (R85). -/
def execInitSetDigits (s : State) : Host.Outcome State Fault Refusal := atItsStep .cDigits sendDigits s

/-- INIT_BRIGHTNESS, step 6 of `init()` (R86). -/
def execInitBrightness (s : State) : Host.Outcome State Fault Refusal := atItsStep .cBright sendBrightness s

/-- TEARDOWN (R98). -/
def execTeardown (s : State) : Host.Outcome State Fault Refusal := request .teardown acceptTeardown s

end Sys2Proof.Machine
end

