-- ==== Sys2Proof/Machine/Wire.lean ====
section
/-! DEFINITION. The six wire commands at the observer (`43_receiver_view.md` R114 to R119). They act on `rx` alone, whatever
the block's own state is: no rule of the block reads `rx` (R36). -/

namespace Sys2Proof.Machine

/-- CELL_WRITE (R114). -/
def execCellWrite (p : Nibble) (codes : List Byte) (s : State) : Host.Outcome State Fault Refusal :=
  .next { s with rx := s.rx.cellWrite p codes }

/-- GLYPH_WRITE (R115). -/
def execGlyphWrite (i : Nibble) (bitmap : List Byte) (s : State) : Host.Outcome State Fault Refusal :=
  .next { s with rx := s.rx.glyphWrite i bitmap }

/-- SET_DIGITS (R116). -/
def execSetDigits (n : Byte) (s : State) : Host.Outcome State Fault Refusal :=
  .next { s with rx := s.rx.setDigits n }

/-- SET_BRIGHTNESS_CMD (R117). -/
def execSetBrightnessCmd (v : Byte) (s : State) : Host.Outcome State Fault Refusal :=
  .next { s with rx := s.rx.setBrightness v }

/-- NORMAL (R119). -/
def execNormal (s : State) : Host.Outcome State Fault Refusal := .next { s with rx := s.rx.normal }

/-- LAMP_TEST (R118). -/
def execLampTest (s : State) : Host.Outcome State Fault Refusal := .next { s with rx := s.rx.lampTest }

end Sys2Proof.Machine
end

