-- ==== Sys2Proof/Machine/Dispatch.lean ====
section
/-! DEFINITION. The one match from an instruction to its meaning. -/

namespace Sys2Proof.Machine

def exec (i : Instr) (s : State) : Host.Outcome State Fault Refusal :=
  match i with
  | .init => Sys2Proof.Machine.execInit s
  | .initSetDigits => Sys2Proof.Machine.execInitSetDigits s
  | .initBrightness => Sys2Proof.Machine.execInitBrightness s
  | .resetSequence => Sys2Proof.Machine.execResetSequence s
  | .teardown => Sys2Proof.Machine.execTeardown s
  | .writeChar position code => Sys2Proof.Machine.execWriteChar position code s
  | .writeString start text => Sys2Proof.Machine.execWriteString start text s
  | .loadCustomFont id data => Sys2Proof.Machine.execLoadCustomFont id data s
  | .setBrightness level => Sys2Proof.Machine.execSetBrightness level s
  | .fullTest durationMs => Sys2Proof.Machine.execFullTest durationMs s
  | .clear => Sys2Proof.Machine.execClear s
  | .cellWrite p codes => Sys2Proof.Machine.execCellWrite p codes s
  | .glyphWrite j bitmap => Sys2Proof.Machine.execGlyphWrite j bitmap s
  | .setDigits n => Sys2Proof.Machine.execSetDigits n s
  | .setBrightnessCmd v => Sys2Proof.Machine.execSetBrightnessCmd v s
  | .normal => Sys2Proof.Machine.execNormal s
  | .lampTest => Sys2Proof.Machine.execLampTest s

end Sys2Proof.Machine
end

