-- ==== Sys2Proof/Machine/Sequencers.lean ====
section
/-! DEFINITION. One step of the block: which row of the spec's tables the sequencer positions select (`10_state.md` R27, R28;
R74, R89, R93, R109), and what is fetched where a step begins an instruction: the next request at `C_IDLE`, the received
frame at `E_RELEASE`. -/

namespace Sys2Proof.Machine

/-- A frame has ended: the observer runs the wire command its bytes decode to; a frame that decodes to none, or that an
out-of-range argument made, is undefined (R113, R122, R59). -/
def runReceivedFrame (s : State) : Host.Outcome State Fault Refusal :=
  match s.rxFrame with
  | some bytes =>
    if s.misaddressed then .next { s with rx := s.rx.undefined, rxFrame := none }
    else
      match decodeFrame bytes with
      | .ok i => exec i { s with rxFrame := none }
      | .error _ => .next { s with rx := s.rx.undefined, rxFrame := none }
  | none => .next s

/-- Row `E_RELEASE`: chip-select high, and with it the end of the frame at the observer. -/
def releaseStep (s : State) : Host.Outcome State Fault Refusal :=
  match (releaseCs s).fault with
  | none => runReceivedFrame (releaseCs s)
  | some _ => .next (releaseCs s)

/-- Rows `E_PAYLOAD` (R74). -/
def payloadStep (s : State) : Host.Outcome State Fault Refusal :=
  match s.encShape, s.encBuf, s.encBuf[s.encIdx]? with
  | .f1, b :: _, _ => .next (encSingle b s)
  | .fn, _, some b => if b = terminator then .next (encStop s) else .next (encNext b s)
  | .fn, _, none => .next (encStop s)
  | _, _, _ => .fault .noRow

/-- The encoder's table (R74). -/
def encoderStep (s : State) : Host.Outcome State Fault Refusal :=
  match s.enc with
  | .eIdle => .fault .noRow
  | .eAssert => .next (encAssert s)
  | .eOpcode => .next (encOpcode s)
  | .ePayload => payloadStep s
  | .eRelease => releaseStep s

/-- The Reset Sequencer's table (R93). -/
def resetStep (s : State) : Host.Outcome State Fault Refusal :=
  match s.rs with
  | .rsIdle => .fault .noRow
  | .rsPre => .next (rsPreRow s)
  | .rsAssert => .next (rsAssertRow s)
  | .rsHold => .next (rsHoldRow s)
  | .rsRelease => .next (rsReleaseRow s)

/-- Row `C_IDLE`: the next request is fetched and accepted; with none, the block waits (R153, log 8). -/
def fetchRequest (s : State) : Host.Outcome State Fault Refusal :=
  match s.calls with
  | r :: rest => request r (accept r) { s with calls := rest }
  | [] => .next s

/-- Row `C_FRAME`, encoder not yet started (R109). -/
def startFirstFrame (s : State) : Host.Outcome State Fault Refusal :=
  match s.req with
  | some r =>
    match Request.firstCommand s.cfg r with
    | some c => .next (startEncoder c s)
    | none => .fault .noRow
  | none => .fault .noRow

/-- Rows `C_FRAME`, encoder done (R109). -/
def endFirstFrame (s : State) : Host.Outcome State Fault Refusal :=
  match s.req with
  | some (.fullTest _) => .next (firstFrameDone s)
  | some (.writeChar _ _) => .next (opDone s)
  | some (.writeString _ _) => .next (opDone s)
  | some (.loadCustomFont _ _) => .next (opDone s)
  | some (.setBrightness _) => .next (opDone s)
  | some .clear => .next (opDone s)
  | some .init => .fault .noRow
  | some .teardown => .fault .noRow
  | none => .fault .noRow

/-- Row `C_WAIT` (R109). -/
def waitStep (s : State) : Host.Outcome State Fault Refusal :=
  match s.req with
  | some (.fullTest durationMs) => .next (waitRow durationMs s)
  | _ => .fault .noRow

/-- The controller's tables (R89, R109); the second column is "not yet started" or "done". -/
def controllerStep (s : State) : Host.Outcome State Fault Refusal :=
  match s.ctl, s.started with
  | .cIdle, false => fetchRequest s
  | .cCfg, false => .next (cfgRow s)
  | .cOpen, false => .next (openRow s)
  | .cEn, false => .next (enRow s)
  | .cReset, false => .next (startReset s)
  | .cReset, true => .next (resetDone s)
  | .cDigits, false => .next (startEncoder (initSetDigitsCommand s.cfg) s)
  | .cDigits, true => .next (digitsDone s)
  | .cBright, false => .next (startEncoder initBrightnessCommand s)
  | .cBright, true => .next (brightDone s)
  | .cFrame, false => startFirstFrame s
  | .cFrame, true => endFirstFrame s
  | .cWait, false => waitStep s
  | .cFrame2, false => .next (startEncoder normalCommand s)
  | .cFrame2, true => .next (opDone s)
  | _, _ => .fault .noRow

/-- Which sequencer moves: a sub-sequencer that is away from its idle position, otherwise the controller (R28). -/
def sequencerStep (s : State) : Host.Outcome State Fault Refusal :=
  match s.enc, s.rs with
  | .eIdle, .rsIdle => controllerStep s
  | .eIdle, _ => resetStep s
  | _, .rsIdle => encoderStep s
  | _, _ => .fault .noRow

/-- One step of the block; a halted block has none (R139, R157). -/
def blockStep (s : State) : Host.Outcome State Fault Refusal :=
  match s.fault with
  | some r => .fault (.halted r)
  | none => sequencerStep s

end Sys2Proof.Machine
end

