-- ==== Sys2Proof/Machine/Step.lean ====
section
/-! DEFINITION. The step of the machine, and how the host's table words are placed where a step fetches them. -/

namespace Sys2Proof.Machine

/-- One step: one row of the spec's tables, with at most one event (`10_state.md` R27, D1). -/
def step (s : State) : Host.Outcome State Fault Refusal := blockStep s

/-- `s` with a word of the opcode table as the received frame, at the position where the next step ends that frame and runs
its wire command (log 2). -/
def State.withFetchWord (s : State) (nbits w : Nat) : State := s.holdFrame (padFrame (tableBytes nbits w))

/-- `s` with requests placed for the host agent to make next: how a program of host calls is loaded (log 2). -/
def State.withCalls (s : State) (calls : List Request) : State := { s with calls := calls }

end Sys2Proof.Machine
end

