-- ==== Sys2Proof/Safety.lean ====
section
/-! DEFINITION. What counts as a safe run: final states and what is observed of them, the invariants every step keeps, and
the properties of a trace the rules state. -/

namespace Sys2Proof.Machine

/-! ### Conditions on a state -/

/-- The block can take a request: no fault, every sequencer at rest, no frame in progress. -/
def State.Accepting (s : State) : Prop := s.fault = none ∧ s.idle = true ∧ s.rxFrame = none

/-- The block can send frames for the host: Ready, with the transport open (R70, R100). -/
def State.Operational (s : State) : Prop := s.dev = .ready ∧ s.busOpen = true

/-- The next `n` capability calls succeed, and `rest` answers the calls after them (D21). -/
def State.Succeeds (s : State) (n : Nat) (rest : List Bool) : Prop := s.results = List.replicate n true ++ rest

/-- A run is final here: no fault, all sequencers idle, and the host makes no further request (R156). -/
def State.Final (s : State) : Prop :=
  s.fault = none ∧ s.ctl = .cIdle ∧ s.rs = .rsIdle ∧ s.enc = .eIdle ∧ s.calls = []

/-- "The observation of a run is its final trace, together with the final `dev`, `bus_open` and pin levels, and the observer
state `rx`" (R156). -/
structure Observation where
  trace : List Event
  dev : Dev
  busOpen : Bool
  lvlCs : Level
  lvlRst : Level
  lvlEn : Level
  rx : Rx
  deriving DecidableEq, Repr

/-- The observation of a state. -/
def State.observation (s : State) : Observation :=
  ⟨s.trace, s.dev, s.busOpen, s.lvlCs, s.lvlRst, s.lvlEn, s.rx⟩

/-! ### Registers without a value -/

/-- The state with the encoder registers that its position does not read set to fixed values: all four before the encoder is
started, the index where the payload is not being sent (R20 "unread until written", R74, R151). -/
def State.withoutUnread (s : State) : State :=
  match s.enc with
  | .eIdle => { s with encShape := .f0, encOp := 0x00#8, encBuf := [], encIdx := 0 }
  | .eAssert => { s with encIdx := 0 }
  | .eOpcode => { s with encIdx := 0 }
  | .ePayload => s
  | .eRelease => { s with encIdx := 0 }

/-! ### The sequencers' invariant -/

/-- The command the encoder is started with at the controller's position (R89, R109). -/
def State.expectedCommand (s : State) : Option Command :=
  match s.ctl, s.req with
  | .cDigits, _ => some (initSetDigitsCommand s.cfg)
  | .cBright, _ => some initBrightnessCommand
  | .cFrame, some r => Request.firstCommand s.cfg r
  | .cFrame2, _ => some normalCommand
  | _, _ => none

/-- What holds at each controller position while no fault is set (R27, R28, R70, R89, R109). -/
def State.PositionOk (s : State) : Prop :=
  match s.ctl with
  | .cIdle => s.rs = .rsIdle ∧ s.enc = .eIdle ∧ s.started = false ∧ s.req = none ∧
      (s.dev = .uninitialized → s.pinsCfg = false ∧ s.busOpen = false)
  | .cCfg => s.rs = .rsIdle ∧ s.enc = .eIdle ∧ s.started = false ∧ s.req = some .init ∧ s.dev = .uninitialized ∧
      s.pinsCfg = false ∧ s.busOpen = false
  | .cOpen => s.rs = .rsIdle ∧ s.enc = .eIdle ∧ s.started = false ∧ s.req = some .init ∧ s.dev = .uninitialized ∧
      s.pinsCfg = true ∧ s.busOpen = false
  | .cEn => s.rs = .rsIdle ∧ s.enc = .eIdle ∧ s.started = false ∧ s.req = some .init ∧ s.dev = .uninitialized ∧
      s.busOpen = true
  | .cReset => s.enc = .eIdle ∧ (s.rs ≠ .rsIdle → s.started = true) ∧ s.req = some .init ∧ s.dev = .uninitialized ∧
      s.busOpen = true
  | .cDigits => s.rs = .rsIdle ∧ (s.enc ≠ .eIdle → s.started = true) ∧ s.req = some .init ∧ s.dev = .uninitialized ∧
      s.busOpen = true
  | .cBright => s.rs = .rsIdle ∧ (s.enc ≠ .eIdle → s.started = true) ∧ s.req = some .init ∧ s.dev = .uninitialized ∧
      s.busOpen = true
  | .cFrame => s.rs = .rsIdle ∧ (s.enc ≠ .eIdle → s.started = true) ∧ s.req.any Request.isDisplay = true ∧ s.dev = .ready
  | .cWait => s.rs = .rsIdle ∧ s.enc = .eIdle ∧ s.started = false ∧ s.dev = .ready ∧ ∃ ms, s.req = some (.fullTest ms)
  | .cFrame2 => s.rs = .rsIdle ∧ (s.enc ≠ .eIdle → s.started = true) ∧ s.dev = .ready ∧ ∃ ms, s.req = some (.fullTest ms)
  | .cHalt => False

/-- What holds of the encoder's registers while it runs (R29, R69, R74): they are the command of the controller's position,
and the index stays within the payload. -/
def State.EncoderOk (s : State) : Prop :=
  s.enc ≠ .eIdle →
    (∃ c, s.expectedCommand = some c ∧ s.encShape = c.shape ∧ s.encOp = c.op ∧ s.encBuf = c.payload) ∧
    (s.enc = .ePayload → s.encShape ≠ .f0 ∧ s.encIdx ≤ s.encBuf.length)

/-- The observer is inside a frame exactly while the encoder is between its `E_ASSERT` and the end of its `E_RELEASE` step. -/
def State.FrameOk (s : State) : Prop :=
  s.rxFrame.isSome = true ↔ s.fault = none ∧ (s.enc = .eOpcode ∨ s.enc = .ePayload ∨ s.enc = .eRelease)

/-- The block's invariant: a well-formed Configuration, the device state and the handle in step (R24, R26), a fault exactly at
`C_HALT` (R30), and the sequencers, the encoder's registers and the observer's frame as the tables leave them. -/
structure State.Inv (s : State) : Prop where
  cfgWf : s.cfg.wf = true
  faultIffHalt : s.fault = none ↔ s.ctl ≠ .cHalt
  openThenConfigured : s.busOpen = true → s.pinsCfg = true
  readyThenOpen : s.dev = .ready → s.busOpen = true
  destroyedThenClosed : s.dev = .destroyed → s.busOpen = false
  positions : s.fault = none → s.PositionOk
  encoder : s.fault = none → s.EncoderOk
  frame : s.FrameOk

/-! ### The trace -/

/-- Where a scan of a trace for the chip-select discipline stands (R75, R76). -/
inductive CsScan where
  /-- Outside every frame. -/
  | between
  /-- Inside a frame that has sent this many bytes. -/
  | inFrame (sent : Nat)
  /-- The discipline was broken. -/
  | broken
  deriving DecidableEq, Repr

/-- One event of the scan: between frames no byte and no release; inside a frame only bytes, at least one, then the release. -/
def CsScan.event (c : CsScan) (e : Event) : CsScan :=
  match c, e with
  | .between, .pin .cs .low => .inFrame 0
  | .between, .pin .cs .high => .broken
  | .between, .tx _ => .broken
  | .between, _ => .between
  | .inFrame n, .tx _ => .inFrame (n + 1)
  | .inFrame (_ + 1), .pin .cs .high => .between
  | .inFrame _, _ => .broken
  | .broken, _ => .broken

/-- The scan of a whole trace. -/
def csScan (trace : List Event) : CsScan := trace.foldl CsScan.event .between

/-- The trace keeps the chip-select discipline, and the scan stands where the encoder does: at `E_PAYLOAD` the opcode and
`enc_idx` payload bytes have been sent. -/
def State.DisciplineOk (s : State) : Prop :=
  csScan s.trace ≠ .broken ∧
  (s.fault = none →
    match s.enc with
    | .eIdle => csScan s.trace = .between
    | .eAssert => csScan s.trace = .between
    | .eOpcode => csScan s.trace = .inFrame 0
    | .ePayload => csScan s.trace = .inFrame (s.encIdx + 1)
    | .eRelease => ∃ n, csScan s.trace = .inFrame (n + 1))

/-- The observer of the trace, cut short where a fault fell into a frame (R111, R113). -/
def State.traceObserver (s : State) : Observer :=
  if s.fault.isSome then (Observer.ofTrace s.trace).cut else Observer.ofTrace s.trace

/-- The observer of the state is the observer of its trace, or, after a frame that an out-of-range argument made (R59), it knows
nothing (log 29). -/
def State.ObserverOk (s : State) : Prop :=
  s.rxFrame = s.traceObserver.frame ∧ (s.rx = s.traceObserver.rx ∨ s.rx = { Rx.initial with undef := true })

/-- The observer's digit count is of its type, "1..16 or `⊥`" (R111). -/
def Rx.DigitsOk (rx : Rx) : Prop := ∀ d, rx.digits = some d → 1 ≤ d ∧ d ≤ 16

/-- The level a trace last drives a pin to, `X` where it never does (R25). -/
def lastDriven (p : Pin) (trace : List Event) : Level :=
  trace.foldl (fun lv e => match e with
    | .pin q d => if q = p then .driven d else lv
    | _ => lv) .unknown

/-- The pin whose `SetPin` failed, read off the position of a recorded PinSetError: the encoder drives chip-select, the Reset
Sequencer the reset pin, the controller the enable pin (R74, R84, R93). -/
def State.failedPin (s : State) : Option Pin :=
  match s.fault with
  | some ⟨.pinSetError, _, .encoder _ _⟩ => some .cs
  | some ⟨.pinSetError, _, .resetSequencer _ _⟩ => some .rst
  | some ⟨.pinSetError, _, .controller _⟩ => some .en
  | _ => none

/-- The recorded levels are those the trace last drove, but for a pin whose `SetPin` failed, which is `X` (R25, R130, R137). -/
def State.LevelsOk (s : State) : Prop :=
  ∀ p, s.level p = if s.failedPin = some p then .unknown else lastDriven p s.trace

/-- The levels a trace drives the reset pin to, in order. -/
def resetDrives (trace : List Event) : List Drive :=
  trace.filterMap fun e => match e with
    | .pin .rst d => some d
    | _ => none

/-- Whether an event is on the frame side of the block: chip-select or a byte. -/
def Event.isBus : Event → Bool
  | .pin .cs _ => true
  | .tx _ => true
  | _ => false

/-- How much of the reset pulse the trace of a state without a fault shows (R92, R95). -/
def State.expectedPulse (s : State) : List (List Drive) :=
  match s.ctl, s.rs with
  | .cCfg, _ => [[]]
  | .cOpen, _ => [[]]
  | .cEn, _ => [[]]
  | .cReset, .rsIdle => if s.started then [[.low, .high]] else [[]]
  | .cReset, .rsPre => [[]]
  | .cReset, .rsAssert => [[]]
  | .cReset, .rsHold => [[.low]]
  | .cReset, .rsRelease => [[.low]]
  | .cIdle, _ =>
    match s.dev with
    | .uninitialized => [[]]
    | .ready => [[.low, .high]]
    | .destroyed => [[], [.low, .high]]
  | _, _ => [[.low, .high]]

/-- At most one reset pulse, low before high, and no frame before it is complete (R95, R155, R158). -/
def State.PulseOk (s : State) : Prop :=
  resetDrives s.trace ∈ [[], [Drive.low], [.low, .high]] ∧
  (resetDrives s.trace = [.low, .high] ∨ s.trace.any Event.isBus = false) ∧
  (s.fault = none → resetDrives s.trace ∈ s.expectedPulse)

/-- A lower bound in milliseconds on the time a stretch of trace takes: the sum of its sleeps (R94, R165). -/
def minElapsedMs (events : List Event) : Nat :=
  (events.map fun e => match e with
    | .sleep ms => ms
    | _ => 0).sum

/-- The frames of a trace, as the bytes between chip-select low and high (R113). -/
def framesOf (trace : List Event) : List (List Byte) :=
  (trace.foldl (fun (acc : List (List Byte) × Option (List Byte)) e =>
    match e, acc.2 with
    | .pin .cs .high, some bytes => (acc.1 ++ [bytes], none)
    | _, _ => (acc.1, captureEvent e acc.2)) ([], none)).1

end Sys2Proof.Machine
end

