-- ==== Sys2Proof/Certificates/Slice0/Obligations.lean ====
section
/-! DEFINITION. The statements for the provers, in the order of OBLIGATIONS.json. -/

open Sys2Proof Sys2Proof.Machine

/-! ### Reset and construction -/

/-- R151, every field of its table, for every construction; the block at reset is such a construction. The encoder registers
are "unspecified; no rule reads them before the encoder is started": two states that differ only in encoder registers which
their position does not read (`State.withoutUnread`) step alike. -/
def Obligations.ResetHoldsConstructionValues : Prop :=
  (∀ (c : Configuration) (t : State), construct c = .next t →
    c.wf = true ∧ t.cfg = c ∧ t.dev = .uninitialized ∧ t.pinsCfg = false ∧ t.busOpen = false ∧
    t.lvlCs = .unknown ∧ t.lvlRst = .unknown ∧ t.lvlEn = .unknown ∧
    t.ctl = .cIdle ∧ t.rs = .rsIdle ∧ t.enc = .eIdle ∧ t.req = none ∧ t.fault = none ∧ t.trace = []) ∧
  (∃ c, construct c = .next State.reset) ∧
  (∀ a b t : State, a.withoutUnread = b.withoutUnread → step a = .next t →
    ∃ u, step b = .next u ∧ u.withoutUnread = t.withoutUnread)

/-- R131: construction gives a block, with that Configuration, exactly when `1 ≤ digits ≤ 16`, the five pins are distinct and
`clock_hz > 0`; otherwise it is refused with BadConfig. -/
def Obligations.ConstructionRefusesIllFormedConfigurations : Prop :=
  ∀ c : Configuration,
    ((1 ≤ c.digits.toNat ∧ c.digits.toNat ≤ 16) ∧
        [c.pinSdata, c.pinSclk, c.pinCs, c.pinRst, c.pinEn].Nodup ∧ 0 < c.clockHz →
      ∃ t, construct c = .next t ∧ t.cfg = c) ∧
    (¬((1 ≤ c.digits.toNat ∧ c.digits.toNat ≤ 16) ∧
        [c.pinSdata, c.pinSclk, c.pinCs, c.pinRst, c.pinEn].Nodup ∧ 0 < c.clockHz) →
      construct c = .refused .badConfig)

/-! ### Encoding -/

/-- `30_encoding.md` section 3 (R62, R56): a frame decodes to a wire command exactly when it is the encoding of that
well-formed command, so no bit of an opcode or payload is dropped in either direction. -/
def Obligations.WireDecodeAndEncodeAgree : Prop :=
  ∀ (bytes : List Byte) (i : Instr), decodeFrame bytes = .ok i ↔ encodeWire i = some bytes ∧ i.wf = true

/-- Frames written out from R62 and the worked examples, byte by byte, decode to the command they stand for; TE13's opcodes
to none. -/
def Obligations.WrittenFramesDecode : Prop :=
  decodeFrame [0x2B#8] = .ok (.cellWrite 11#4 []) ∧
  decodeFrame [0x4F#8, 0x01#8] = .ok (.glyphWrite 15#4 [0x01#8]) ∧
  decodeFrame [0xE0#8, 0x07#8] = .ok (.setDigits 0x07#8) ∧
  decodeFrame [0xE4#8, 0xFF#8] = .ok (.setBrightnessCmd 0xFF#8) ∧
  decodeFrame [0xE8#8] = .ok .normal ∧
  decodeFrame [0xE9#8] = .ok .lampTest ∧
  decodeFrame [0xE1#8] = .error (.unassignedOpcode 0xE1#8) ∧
  decodeFrame [0x30#8] = .error (.unassignedOpcode 0x30#8) ∧
  decodeFrame [0x00#8] = .error (.unassignedOpcode 0x00#8) ∧
  decodeFrame [0xFF#8] = .error (.unassignedOpcode 0xFF#8)

/-- R57: the opcode of a cell or glyph operation is the base plus the argument, modulo 256, and that is the opcode of the
command the operation starts the encoder with. R58: for an argument from 0 to 15 the opcode has the base's high nibble in
`op[7:4]` and the argument in `op[3:0]`, and is `0x20 | p` or `0x40 | i`. -/
def Obligations.OpcodeIsBasePlusArgumentModulo256 : Prop :=
  (∀ (a code : Nat) (text : List Nat), a < 256 →
    (writeCharCommand a code).op.toNat = (0x20 + a) % 256 ∧
    (writeStringCommand a text).op.toNat = (0x20 + a) % 256 ∧
    (loadCustomFontCommand a text).op.toNat = (0x40 + a) % 256) ∧
  (∀ a : Nat, a ≤ 15 →
    (cellOpcode a).extractLsb' 4 4 = 0x2#4 ∧ (cellOpcode a).extractLsb' 0 4 = BitVec.ofNat 4 a ∧
    cellOpcode a = 0x20#8 ||| BitVec.ofNat 8 a ∧
    (glyphOpcode a).extractLsb' 4 4 = 0x4#4 ∧ (glyphOpcode a).extractLsb' 0 4 = BitVec.ofNat 4 a ∧
    glyphOpcode a = 0x40#8 ||| BitVec.ofNat 8 a)

/-- R68: bit `j` of byte `n` of a frame is data bit `8n + j` after chip-select falls. -/
def Obligations.WireBitsAreLeastSignificantFirst : Prop :=
  ∀ (frame : List Byte) (n j : Nat) (b : Byte), frame[n]? = some b → j < 8 →
    (frameBits frame)[8 * n + j]? = some (b.getLsbD j)

/-! ### The wire commands at the observer -/

/-- R114, with nothing undefined before (R122). Within the digit count CELL_WRITE completes, cell `p + j` holds `c[j]` for each
`j < k`, and every other cell, every glyph byte, the other observer fields and the whole block are unchanged. At a position at or
beyond the digit count, on a run past it, or with the digit count unknown, R122 applies: `undef` is set and every other field of
`rx` becomes unknown. That an empty write at the digit count itself is undefined is the model's choice (log 15): the formula
`p + k ≤ rx.digits` alone would admit it. (`d ≤ 16` is `ObserverDigitCountStaysInRange`.) -/
def Obligations.CellWriteWritesConsecutiveCells : Prop :=
  ∀ (s : State) (p : Nibble) (codes : List Byte),
    (∀ d, s.rx.undef = false → s.rx.digits = some d → d ≤ 16 → p.toNat < d → p.toNat + codes.length ≤ d →
      ∃ rx, exec (.cellWrite p codes) s = .next { s with rx := rx } ∧
        (∀ j, j < codes.length → rx.cellAt (p.toNat + j) = codes[j]?) ∧
        (∀ q, q < p.toNat ∨ p.toNat + codes.length ≤ q → rx.cellAt q = s.rx.cellAt q) ∧
        rx.cgram = s.rx.cgram ∧ rx.digits = s.rx.digits ∧ rx.bright = s.rx.bright ∧ rx.lamp = s.rx.lamp ∧
        rx.undef = false) ∧
    ((∀ d, s.rx.digits = some d → d ≤ p.toNat ∨ d < p.toNat + codes.length) →
      ∃ rx, exec (.cellWrite p codes) s = .next { s with rx := rx } ∧
        rx.undef = true ∧ (∀ q, rx.cellAt q = none) ∧ (∀ i j, rx.glyphAt i j = none) ∧
        rx.digits = none ∧ rx.bright = none ∧ rx.lamp = none)

/-- R115, with nothing undefined before (R122): GLYPH_WRITE of at most five bytes completes; byte `j` of slot `i` is `d[j]` where
one was sent and unknown where none was; every other slot, every cell, the other fields and the block are unchanged. -/
def Obligations.GlyphWriteStoresTheBytesSent : Prop :=
  ∀ (s : State) (i : Nibble) (bitmap : List Byte), s.rx.undef = false → bitmap.length ≤ 5 →
    ∃ rx, exec (.glyphWrite i bitmap) s = .next { s with rx := rx } ∧
      (∀ j, j < 5 → rx.glyphAt i.toNat j = bitmap[j]?) ∧
      (∀ k j, k ≠ i.toNat → rx.glyphAt k j = s.rx.glyphAt k j) ∧
      rx.cell = s.rx.cell ∧ rx.digits = s.rx.digits ∧ rx.bright = s.rx.bright ∧ rx.lamp = s.rx.lamp ∧
      rx.undef = false

/-- R116: SET_DIGITS completes; with nothing undefined before (R122), a payload up to `0x0F` sets the digit count to `n + 1` and
changes nothing else; any other payload byte, or a payload that is not one byte, is an undefined frame. -/
def Obligations.SetDigitsSetsPayloadPlusOne : Prop :=
  ∀ (s : State) (n : Byte) (payload : List Byte),
    (s.rx.undef = false → n.toNat ≤ 0x0F →
      exec (.setDigits n) s = .next { s with rx := { s.rx with digits := some (n.toNat + 1) } }) ∧
    (0x0F < n.toNat → exec (.setDigits n) s = .next { s with rx := { Rx.initial with undef := true } }) ∧
    (payload.length ≠ 1 → s.rx.receive (0xE0#8 :: payload) = { Rx.initial with undef := true })

/-- R117, R118, R119, with nothing undefined before ("every claim about the display takes `rx.undef = false` as a premise", R122):
SET_BRIGHTNESS stores every value, LAMP_TEST turns the lamp test on, NORMAL turns it off; each completes and changes nothing else,
in particular no cell and no glyph byte; a payload of another length is an undefined frame. -/
def Obligations.BrightnessLampAndNormalEffects : Prop :=
  (∀ s : State, s.rx.undef = false →
    (∀ v : Byte, exec (.setBrightnessCmd v) s = .next { s with rx := { s.rx with bright := some v } }) ∧
    exec .lampTest s = .next { s with rx := { s.rx with lamp := some true } } ∧
    exec .normal s = .next { s with rx := { s.rx with lamp := some false } }) ∧
  (∀ (rx : Rx) (payload : List Byte),
    (payload.length ≠ 1 → rx.receive (0xE4#8 :: payload) = { Rx.initial with undef := true }) ∧
    (payload ≠ [] → rx.receive (0xE9#8 :: payload) = { Rx.initial with undef := true } ∧
      rx.receive (0xE8#8 :: payload) = { Rx.initial with undef := true }))

/-- R122: a frame whose opcode is none of the six, or whose payload length does not fit its command, sets `undef` and makes
every other field unknown. That a glyph opcode with more than five payload bytes is such a frame is the model's choice (log 16):
R122 names R116 to R119 for the lengths, and R115 says that the block never sends one. -/
def Obligations.WrongFramesAreUndefined : Prop :=
  ∀ (rx : Rx) (op : Byte) (payload : List Byte),
    ((op.toNat < 0x20 ∨ (0x30 ≤ op.toNat ∧ op.toNat < 0x40) ∨
        (0x50 ≤ op.toNat ∧ op ∉ [0xE0#8, 0xE4#8, 0xE8#8, 0xE9#8])) ∨
      ((0x40 ≤ op.toNat ∧ op.toNat < 0x50) ∧ 5 < payload.length) ∨
      (op ∈ [0xE0#8, 0xE4#8] ∧ payload.length ≠ 1) ∨
      (op ∈ [0xE8#8, 0xE9#8] ∧ payload ≠ [])) →
    rx.receive (op :: payload) = { Rx.initial with undef := true }

/-- After an undefined frame every wire command completes and leaves `undef` set and every other field unknown, and so does every
frame whatever its bytes are, and what the display shows is not given at any cell (R122). That later commands write nothing is
the model's choice (log 28), taken from the end state of program P4 (`95_test_vectors.md`). -/
def Obligations.UndefinedObserverStaysUndefined : Prop :=
  (∀ (i : Instr) (s : State), i.isWire = true → s.rx.undef = true →
    exec i s = .next { s with rx := { Rx.initial with undef := true } }) ∧
  (∀ (rx : Rx) (bytes : List Byte), rx.undef = true → rx.receive bytes = { Rx.initial with undef := true }) ∧
  (∀ (rx : Rx) (p : Nat), rx.undef = true → rx.shown p = .notGiven)

/-! ### Display operations -/

/-- R103, every call succeeding: in Ready, WRITE_CHAR completes for every position and code of byte type, zero code and
out-of-range positions included, with the one F1 frame `0x20 +8 position`, code; nothing else changes but `lvl_cs`, the encoder
registers, the observer, and `req`, which is not kept.
The observer takes the frame by its bytes for a position below the digit count and is undefined for every other (R59, log 29). -/
def Obligations.WriteCharSendsOneF1Frame : Prop :=
  ∀ (s : State) (position code : Nat) (rest : List Bool),
    s.Accepting → s.Operational → position < 256 → code < 256 → s.Succeeds 4 rest →
    exec (.writeChar position code) s = .next { s with
      lvlCs := .driven .high
      req := none
      encShape := .f1
      encOp := 0x20#8 + BitVec.ofNat 8 position
      encBuf := [BitVec.ofNat 8 code]
      encIdx := 1
      trace := s.trace ++ [.pin .cs .low, .tx (0x20#8 + BitVec.ofNat 8 position), .tx (BitVec.ofNat 8 code),
        .pin .cs .high]
      rx := if s.cfg.digits.toNat ≤ position then { Rx.initial with undef := true }
        else s.rx.receive [0x20#8 + BitVec.ofNat 8 position, BitVec.ofNat 8 code]
      results := rest }

/-- R104, every call succeeding: in Ready, WRITE_STRING completes for every start of byte type and every text of bytes, with
one frame: the opcode `0x20 +8 start`, then the text up to its first zero, which is not sent.
The observer takes the frame by its bytes for a start below the digit count and is undefined for every other (R59, log 29). -/
def Obligations.WriteStringSendsTextUpToFirstZero : Prop :=
  ∀ (s : State) (start : Nat) (text : List Nat) (rest : List Bool) (sent : List Byte),
    s.Accepting → s.Operational → start < 256 → (∀ c ∈ text, c < 256) →
    sent = (text.map (BitVec.ofNat 8)).takeWhile (fun b => b != 0x00#8) → s.Succeeds (3 + sent.length) rest →
    exec (.writeString start text) s = .next { s with
      lvlCs := .driven .high
      req := none
      encShape := .fn
      encOp := 0x20#8 + BitVec.ofNat 8 start
      encBuf := text.map (BitVec.ofNat 8)
      encIdx := sent.length
      trace := s.trace ++ [.pin .cs .low, .tx (0x20#8 + BitVec.ofNat 8 start)] ++ sent.map Event.tx ++ [.pin .cs .high]
      rx := if s.cfg.digits.toNat ≤ start then { Rx.initial with undef := true }
        else s.rx.receive ((0x20#8 + BitVec.ofNat 8 start) :: sent)
      results := rest }

/-- R105, every call succeeding: in Ready, LOAD_CUSTOM_FONT completes for every identifier of byte type and every five bytes,
with one frame: the opcode `0x40 +8 id`, then the bytes up to the first zero.
The observer takes the frame by its bytes for an identifier from 0 to 15 and is undefined for every other (R59, log 29). -/
def Obligations.LoadCustomFontSendsBitmapUpToFirstZero : Prop :=
  ∀ (s : State) (id : Nat) (data : List Nat) (rest : List Bool) (sent : List Byte),
    s.Accepting → s.Operational → id < 256 → data.length = 5 → (∀ b ∈ data, b < 256) →
    sent = (data.map (BitVec.ofNat 8)).takeWhile (fun b => b != 0x00#8) → s.Succeeds (3 + sent.length) rest →
    exec (.loadCustomFont id data) s = .next { s with
      lvlCs := .driven .high
      req := none
      encShape := .fn
      encOp := 0x40#8 + BitVec.ofNat 8 id
      encBuf := data.map (BitVec.ofNat 8)
      encIdx := sent.length
      trace := s.trace ++ [.pin .cs .low, .tx (0x40#8 + BitVec.ofNat 8 id)] ++ sent.map Event.tx ++ [.pin .cs .high]
      rx := if 15 < id then { Rx.initial with undef := true } else s.rx.receive ((0x40#8 + BitVec.ofNat 8 id) :: sent)
      results := rest }

/-- R106, every call succeeding: in Ready, SET_BRIGHTNESS completes for every level 0 to 255 with the frame `0xE4`, level.
The observer stores the level, unless something undefined has occurred (log 28). -/
def Obligations.SetBrightnessSendsLevel : Prop :=
  ∀ (s : State) (level : Nat) (rest : List Bool),
    s.Accepting → s.Operational → level < 256 → s.Succeeds 4 rest →
    exec (.setBrightness level) s = .next { s with
      lvlCs := .driven .high
      req := none
      encShape := .f1
      encOp := 0xE4#8
      encBuf := [BitVec.ofNat 8 level]
      encIdx := 1
      trace := s.trace ++ [.pin .cs .low, .tx 0xE4#8, .tx (BitVec.ofNat 8 level), .pin .cs .high]
      rx := if s.rx.undef then { Rx.initial with undef := true } else { s.rx with bright := some (BitVec.ofNat 8 level) }
      results := rest }

/-- R107, every call succeeding: in Ready, FULL_TEST completes for every duration below 2^32, zero included, with the seven
events of the two opcode-only frames and the wait between them; the observer ends with the lamp test off and nothing else
changed, unless something undefined has occurred (log 28). -/
def Obligations.FullTestSendsLampWaitNormal : Prop :=
  ∀ (s : State) (durationMs : Nat) (rest : List Bool),
    s.Accepting → s.Operational → durationMs < 2 ^ 32 → s.Succeeds 6 rest →
    exec (.fullTest durationMs) s = .next { s with
      lvlCs := .driven .high
      req := none
      encShape := .f0
      encOp := 0xE8#8
      encBuf := []
      trace := s.trace ++ [.pin .cs .low, .tx 0xE9#8, .pin .cs .high, .sleep durationMs,
        .pin .cs .low, .tx 0xE8#8, .pin .cs .high]
      rx := if s.rx.undef then { Rx.initial with undef := true } else { s.rx with lamp := some false }
      results := rest }

/-- R108, every call succeeding: in Ready, CLEAR completes with one frame: opcode `0x20` and as many spaces as the configured
digit count, none of them truncated. -/
def Obligations.ClearSendsOneSpacePerDigit : Prop :=
  ∀ (s : State) (rest : List Bool),
    s.Accepting → s.Operational → s.Succeeds (3 + s.cfg.digits.toNat) rest →
    exec .clear s = .next { s with
      lvlCs := .driven .high
      req := none
      encShape := .fn
      encOp := 0x20#8
      encBuf := List.replicate s.cfg.digits.toNat 0x20#8
      encIdx := s.cfg.digits.toNat
      trace := s.trace ++ [.pin .cs .low, .tx 0x20#8] ++ List.replicate s.cfg.digits.toNat (.tx 0x20#8) ++
        [.pin .cs .high]
      rx := s.rx.receive (0x20#8 :: List.replicate s.cfg.digits.toNat 0x20#8)
      results := rest }

/-- R67, `clear()`: from a state with a well-formed Configuration that can send it, CLEAR leaves exactly the state that `write_string(0, repeat(digits, 0x20))`
leaves. -/
def Obligations.ClearIsWriteStringOfSpaces : Prop :=
  ∀ (s : State) (rest : List Bool),
    s.cfg.wf = true → s.Accepting → s.Operational → s.Succeeds (3 + s.cfg.digits.toNat) rest →
    exec .clear s = exec (.writeString 0 (List.replicate s.cfg.digits.toNat 0x20)) s

/-- R78 and R77: sent by the encoder with every call succeeding, an FN command without a zero byte gives the events of the F1
command when it has one payload byte and of the F0 command when it has none; FN with payload `[0x00]` gives the F0 frame, F1
with payload `[0x00]` sends the zero. -/
def Obligations.FnFrameAgainstF1AndF0 : Prop :=
  ∀ (s : State) (op b : Byte) (rest : List Bool), s.fault = none → s.busOpen = true →
    (b ≠ 0x00#8 → s.Succeeds 4 rest → (frame (.fn op [b]) s).trace = (frame (.f1 op b) s).trace) ∧
    (s.Succeeds 3 rest → (frame (.fn op []) s).trace = (frame (.f0 op) s).trace) ∧
    (s.Succeeds 3 rest → (frame (.fn op [0x00#8]) s).trace = (frame (.f0 op) s).trace) ∧
    (s.Succeeds 4 rest →
      (frame (.f1 op 0x00#8) s).trace = s.trace ++ [.pin .cs .low, .tx op, .tx 0x00#8, .pin .cs .high])

/-- R128: each display operation with arguments of their types, requested in Uninitialized, raises NotReady before any event:
the fault is recorded with the request at `C_IDLE`, `ctl` is `C_HALT`, and nothing else changes. -/
def Obligations.DisplayOperationBeforeInitRaisesNotReady : Prop :=
  ∀ (s : State) (r : Request), s.Accepting → s.dev = .uninitialized → r.isDisplay = true → r.wf = true →
    exec r.toInstr s = .next { s with
      req := some r
      fault := some ⟨.notReady, some r, .controller .cIdle⟩
      ctl := .cHalt }

/-- R129: each operation but TEARDOWN with arguments of their types, requested after teardown, raises UseAfterTeardown before
any event. -/
def Obligations.OperationAfterTeardownRaisesUseAfterTeardown : Prop :=
  ∀ (s : State) (r : Request), s.Accepting → s.dev = .destroyed → r ≠ .teardown → r.wf = true →
    exec r.toInstr s = .next { s with
      req := some r
      fault := some ⟨.useAfterTeardown, some r, .controller .cIdle⟩
      ctl := .cHalt }

/-- R132: at `C_IDLE` an operation with an argument outside its type is refused with BadArgument: a byte argument above 255,
`font.data` not five bytes, a text or bitmap element above 255, a duration not below 2^32. An operation whose arguments have
their types, a position of 20 or a font identifier of 16 included, is taken. That the refusal comes before the checks of `dev`,
so also in Uninitialized and Destroyed, is the model's choice (log 12). -/
def Obligations.IllTypedArgumentIsRefused : Prop :=
  ∀ s : State, s.fault = none → s.idle = true →
    (∀ position code, 256 ≤ position ∨ 256 ≤ code → exec (.writeChar position code) s = .refused .badArgument) ∧
    (∀ start text, 256 ≤ start ∨ (∃ c ∈ text, 256 ≤ c) → exec (.writeString start text) s = .refused .badArgument) ∧
    (∀ id data, 256 ≤ id ∨ data.length ≠ 5 ∨ (∃ b ∈ data, 256 ≤ b) →
      exec (.loadCustomFont id data) s = .refused .badArgument) ∧
    (∀ level, 256 ≤ level → exec (.setBrightness level) s = .refused .badArgument) ∧
    (∀ durationMs, 2 ^ 32 ≤ durationMs → exec (.fullTest durationMs) s = .refused .badArgument) ∧
    (∀ r : Request, r.wf = true → ∃ t, exec r.toInstr s = .next t)

/-- R27, its last sentence, R70 and R95: away from `C_IDLE` no host operation is accepted, and the three steps of bring-up have
no effect away from their step of `init()` (the model's refusals `busy` and `notAtItsStep`, log 13). -/
def Obligations.OperationsAreRefusedAwayFromTheirPosition : Prop :=
  (∀ (s : State) (r : Request), s.fault = none → s.ctl ≠ .cIdle → exec r.toInstr s = .refused .busy) ∧
  (∀ s : State, s.fault = none →
    (s.ctl ≠ .cReset → exec .resetSequence s = .refused .notAtItsStep) ∧
    (s.ctl ≠ .cDigits → exec .initSetDigits s = .refused .notAtItsStep) ∧
    (s.ctl ≠ .cBright → exec .initBrightness s = .refused .notAtItsStep))

/-- The frame of the display operations in every outcome, whatever the capability calls answer: the Configuration, `dev`,
`pins_cfg`, `bus_open`, the reset and enable levels, `rs`, and the requests to come are unchanged, and the old trace stays at
the front. -/
def Obligations.DisplayOperationFrame : Prop :=
  ∀ (s t : State) (r : Request), r.isDisplay = true → exec r.toInstr s = .next t →
    t.cfg = s.cfg ∧ t.dev = s.dev ∧ t.pinsCfg = s.pinsCfg ∧ t.busOpen = s.busOpen ∧ t.lvlRst = s.lvlRst ∧
    t.lvlEn = s.lvlEn ∧ t.rs = s.rs ∧ t.calls = s.calls ∧ ∃ new, t.trace = s.trace ++ new

/-- R61 for the display operations: the frames that an operation without a fault adds to the trace are those of its row of the
encoding table, in order. -/
def Obligations.DisplayOperationsSendTheTablesFrames : Prop :=
  ∀ (s t : State) (r : Request), r.isDisplay = true → s.Accepting → exec r.toInstr s = .next t → t.fault = none →
    ∃ new, t.trace = s.trace ++ new ∧ framesOf new = encode s.cfg r.toInstr

/-! ### Lifecycle -/

/-- R90: INIT in Uninitialized, every call succeeding, completes with its 15 events and the end state of the rule; the
observer forgets at the reset pulse and then takes the two frames (R112, R116, R117). -/
def Obligations.InitEmitsItsFifteenEvents : Prop :=
  ∀ (s : State) (rest : List Bool), s.Accepting → s.dev = .uninitialized → s.Succeeds 13 rest →
    exec .init s = .next { s with
      dev := .ready
      pinsCfg := true
      busOpen := true
      lvlCs := .driven .high
      lvlRst := .driven .high
      lvlEn := .driven .high
      req := none
      encShape := .f1
      encOp := 0xE4#8
      encBuf := [0xFF#8]
      encIdx := 1
      trace := s.trace ++ [.cfgPins, .busOpen s.cfg.clockHz, .pin .en .high, .sleep 2, .pin .rst .low, .sleep 2,
        .pin .rst .high, .pin .cs .low, .tx 0xE0#8, .tx (s.cfg.digits - 1#8), .pin .cs .high,
        .pin .cs .low, .tx 0xE4#8, .tx 0xFF#8, .pin .cs .high]
      rx := (s.rx.forget.receive [0xE0#8, s.cfg.digits - 1#8]).receive [0xE4#8, 0xFF#8]
      results := rest }

/-- R81, its first two sentences: INIT in Ready is a no-op; it emits no event and writes no field. -/
def Obligations.InitInReadyIsNoOp : Prop :=
  ∀ s : State, s.Accepting → s.dev = .ready → exec .init s = .next s

/-- R125: after a successful INIT of a well-formed block the observer knows the digit count, the brightness `0xFF` and nothing
else; after a following CLEAR every cell below the digit count holds `0x20`. -/
def Obligations.ObserverAfterInitAndClear : Prop :=
  ∀ (s t u : State) (rest : List Bool), s.Accepting → s.dev = .uninitialized → s.cfg.wf = true → s.rx.undef = false →
    s.Succeeds (13 + (3 + s.cfg.digits.toNat)) rest → exec .init s = .next t → exec .clear t = .next u →
    t.rx = { Rx.initial with digits := some s.cfg.digits.toNat, bright := some 0xFF#8 } ∧
    (∀ p, p < s.cfg.digits.toNat → u.rx.cellAt p = some 0x20#8) ∧ u.rx.undef = false

/-- `41_lifecycle.md` section 2, steps 1 and 2 failing (R82, R83, R91): the failing call emits nothing, the fatal fault is
recorded at its step, `dev` stays Uninitialized and `pins_cfg`, `bus_open` are as the steps before left them. -/
def Obligations.FailingBringUpIsFatal : Prop :=
  ∀ (s : State) (rest : List Bool), s.Accepting → s.dev = .uninitialized →
    (s.results = false :: rest →
      exec .init s = .next { s with
        req := some .init
        fault := some ⟨.fatalPinConfig, some .init, .controller .cCfg⟩
        ctl := .cHalt
        results := rest }) ∧
    (s.results = true :: false :: rest →
      exec .init s = .next { s with
        pinsCfg := true
        req := some .init
        fault := some ⟨.fatalBusOpen, some .init, .controller .cOpen⟩
        ctl := .cHalt
        trace := s.trace ++ [.cfgPins]
        results := rest })

/-- R92 (every call succeeding): RESET_SEQUENCE at its step completes with its four events, leaves the reset pin high, the
sequencer at rest and marked as started (log 5), and changes nothing else but the observer, which forgets (R112). -/
def Obligations.ResetSequencePulsesResetLow : Prop :=
  ∀ (s : State) (rest : List Bool), s.fault = none → s.atStep .cReset = true → s.Succeeds 2 rest →
    exec .resetSequence s = .next { s with
      lvlRst := .driven .high
      started := true
      trace := s.trace ++ [.sleep 2, .pin .rst .low, .sleep 2, .pin .rst .high]
      rx := s.rx.forget
      results := rest }

/-- R85: INIT_SET_DIGITS at its step, every call succeeding, completes with the frame `0xE0`, `digits -8 1`, a zero payload
for one digit included. -/
def Obligations.InitSetDigitsSendsCountLessOne : Prop :=
  ∀ (s : State) (rest : List Bool), s.fault = none → s.atStep .cDigits = true → s.busOpen = true → s.Succeeds 4 rest →
    exec .initSetDigits s = .next { s with
      lvlCs := .driven .high
      started := true
      encShape := .f1
      encOp := 0xE0#8
      encBuf := [s.cfg.digits - 1#8]
      encIdx := 1
      trace := s.trace ++ [.pin .cs .low, .tx 0xE0#8, .tx (s.cfg.digits - 1#8), .pin .cs .high]
      rx := s.rx.receive [0xE0#8, s.cfg.digits - 1#8]
      rxFrame := none
      results := rest }

/-- R86: INIT_BRIGHTNESS at its step, every call succeeding, completes with the frame `0xE4`, `0xFF`, whatever `dev` is.
The observer stores the brightness, unless something undefined has occurred (log 28). -/
def Obligations.InitBrightnessSendsMaximum : Prop :=
  ∀ (s : State) (rest : List Bool), s.fault = none → s.atStep .cBright = true → s.busOpen = true → s.Succeeds 4 rest →
    exec .initBrightness s = .next { s with
      lvlCs := .driven .high
      started := true
      encShape := .f1
      encOp := 0xE4#8
      encBuf := [0xFF#8]
      encIdx := 1
      trace := s.trace ++ [.pin .cs .low, .tx 0xE4#8, .tx 0xFF#8, .pin .cs .high]
      rx := if s.rx.undef then { Rx.initial with undef := true } else { s.rx with bright := some 0xFF#8 }
      rxFrame := none
      results := rest }

/-- R98: TEARDOWN completes in every state that accepts a request: one `BusClose` event if the handle is open and none
otherwise, `dev` Destroyed, the handle closed, no pin driven; a second teardown changes nothing. -/
def Obligations.TeardownReleasesTheHandleOnce : Prop :=
  ∀ s : State, s.Accepting →
    (s.busOpen = true →
      exec .teardown s = .next { s with dev := .destroyed, busOpen := false, trace := s.trace ++ [.busClose] }) ∧
    (s.busOpen = false → exec .teardown s = .next { s with dev := .destroyed }) ∧
    (s.busOpen = false → s.dev = .destroyed → exec .teardown s = .next s)

/-- The frame of the lifecycle operations in every outcome, whatever the capability calls answer: INIT leaves the Configuration
and the requests to come, and the old trace stays at the front; the two frame-sending steps leave the Configuration, `dev`,
`pins_cfg`, `bus_open`, the reset and enable levels, `rs`, `req` and the requests to come; the reset sequence leaves those but
the reset level and `rs`, and also chip-select, `enc` and the encoder's registers. -/
def Obligations.BringUpFrame : Prop :=
  (∀ s t : State, exec .init s = .next t → t.cfg = s.cfg ∧ t.calls = s.calls ∧ ∃ new, t.trace = s.trace ++ new) ∧
  (∀ (s t : State) (i : Instr), i = .initSetDigits ∨ i = .initBrightness → exec i s = .next t →
    t.cfg = s.cfg ∧ t.dev = s.dev ∧ t.pinsCfg = s.pinsCfg ∧ t.busOpen = s.busOpen ∧ t.lvlRst = s.lvlRst ∧
    t.lvlEn = s.lvlEn ∧ t.rs = s.rs ∧ t.req = s.req ∧ t.calls = s.calls) ∧
  (∀ s t : State, exec .resetSequence s = .next t →
    t.cfg = s.cfg ∧ t.dev = s.dev ∧ t.pinsCfg = s.pinsCfg ∧ t.busOpen = s.busOpen ∧ t.lvlCs = s.lvlCs ∧
    t.lvlEn = s.lvlEn ∧ t.enc = s.enc ∧ t.encShape = s.encShape ∧ t.encOp = s.encOp ∧ t.encBuf = s.encBuf ∧
    t.encIdx = s.encIdx ∧ t.req = s.req ∧ t.calls = s.calls)

/-! ### Faults at the sequencers -/

/-- R130: a failing SetPin or Tx in any row emits no event, leaves the pin of a SetPin unknown, and sets PinSetError or TxError at
the row's position instead of taking the row's next. Inside a frame the observer becomes undefined (R113, R122); outside one it
keeps what it knows. That the failing assertion of chip-select stands outside every frame is the model's choice (log 17). -/
def Obligations.FailingCallFaults : Prop :=
  ∀ (s : State) (rest : List Bool), s.fault = none → s.results = false :: rest →
    (s.rs = .rsIdle → s.enc = .eAssert ∨ s.enc = .eRelease →
      step s = .next { s with
        lvlCs := .unknown
        ctl := .cHalt
        fault := some ⟨.pinSetError, s.req, .encoder s.ctl s.enc⟩
        rx := if s.rxFrame.isSome then { Rx.initial with undef := true } else s.rx
        rxFrame := none
        results := rest }) ∧
    (s.enc = .eIdle → s.rs = .rsAssert ∨ s.rs = .rsRelease →
      step s = .next { s with
        lvlRst := .unknown
        ctl := .cHalt
        fault := some ⟨.pinSetError, s.req, .resetSequencer s.ctl s.rs⟩
        rx := if s.rxFrame.isSome then { Rx.initial with undef := true } else s.rx
        rxFrame := none
        results := rest }) ∧
    (s.atStep .cEn = true →
      step s = .next { s with
        lvlEn := .unknown
        ctl := .cHalt
        fault := some ⟨.pinSetError, s.req, .controller .cEn⟩
        rx := if s.rxFrame.isSome then { Rx.initial with undef := true } else s.rx
        rxFrame := none
        results := rest }) ∧
    (s.rs = .rsIdle → s.busOpen = true →
      s.enc = .eOpcode ∨ (s.enc = .ePayload ∧ s.encShape = .f1 ∧ s.encBuf ≠ []) ∨
        (s.enc = .ePayload ∧ s.encShape = .fn ∧ ∃ b, s.encBuf[s.encIdx]? = some b ∧ b ≠ 0x00#8) →
      step s = .next { s with
        ctl := .cHalt
        fault := some ⟨.txError, s.req, .encoder s.ctl s.enc⟩
        rx := if s.rxFrame.isSome then { Rx.initial with undef := true } else s.rx
        rxFrame := none
        results := rest })

/-- R139 and R157: once a fault is set there is no further step, the state is not final, and no host operation, TEARDOWN and
the steps of bring-up included, is accepted. -/
def Obligations.HaltedBlockTakesNoStep : Prop :=
  ∀ s : State, s.fault ≠ none →
    (∀ t, step s ≠ .next t) ∧ ¬ s.Final ∧ ∀ (i : Instr) (t : State), i.isWire = false → exec i s ≠ .next t

/-! ### Steps -/

/-- The encoder's table (R74), each row whose call succeeds: its event, what it writes and where `enc` goes; the rows at the
end of an FN payload make no call and emit nothing. -/
def Obligations.EncoderTakesTheRowsOfItsTable : Prop :=
  ∀ (s : State) (rest : List Bool), s.fault = none → s.rs = .rsIdle → s.busOpen = true → s.results = true :: rest →
    (s.enc = .eAssert → step s = .next { s with
      lvlCs := .driven .low, enc := .eOpcode, trace := s.trace ++ [.pin .cs .low], rxFrame := some [], results := rest }) ∧
    (s.enc = .eOpcode → s.encShape = .f0 → step s = .next { s with
      enc := .eRelease, trace := s.trace ++ [.tx s.encOp], rxFrame := s.rxFrame.map fun bytes => bytes ++ [s.encOp],
      results := rest }) ∧
    (s.enc = .eOpcode → s.encShape ≠ .f0 → step s = .next { s with
      enc := .ePayload, encIdx := 0, trace := s.trace ++ [.tx s.encOp],
      rxFrame := s.rxFrame.map fun bytes => bytes ++ [s.encOp], results := rest }) ∧
    (∀ b, s.enc = .ePayload → s.encShape = .f1 → s.encBuf[0]? = some b → step s = .next { s with
      enc := .eRelease, encIdx := 1, trace := s.trace ++ [.tx b], rxFrame := s.rxFrame.map fun bytes => bytes ++ [b],
      results := rest }) ∧
    (∀ b, s.enc = .ePayload → s.encShape = .fn → s.encBuf[s.encIdx]? = some b → b ≠ 0x00#8 → step s = .next { s with
      encIdx := s.encIdx + 1, trace := s.trace ++ [.tx b], rxFrame := s.rxFrame.map fun bytes => bytes ++ [b],
      results := rest }) ∧
    (s.enc = .ePayload → s.encShape = .fn → s.encIdx = s.encBuf.length ∨ s.encBuf[s.encIdx]? = some 0x00#8 →
      step s = .next { s with enc := .eRelease }) ∧
    (s.enc = .eRelease → ∃ rx, step s = .next { s with
      lvlCs := .driven .high, enc := .eIdle, trace := s.trace ++ [.pin .cs .high], rx := rx, rxFrame := none,
      results := rest })

/-- The Reset Sequencer's table (R93), each row with its calls succeeding, and its start by the controller at `C_RESET`. -/
def Obligations.ResetSequencerTakesTheRowsOfItsTable : Prop :=
  ∀ (s : State) (rest : List Bool), s.fault = none → s.enc = .eIdle → s.results = true :: rest →
    (s.rs = .rsIdle → s.ctl = .cReset → s.started = false → step s = .next { s with rs := .rsPre, started := true }) ∧
    (s.rs = .rsPre → step s = .next { s with rs := .rsAssert, trace := s.trace ++ [.sleep 2] }) ∧
    (s.rs = .rsAssert → step s = .next { s with
      rs := .rsHold, lvlRst := .driven .low, trace := s.trace ++ [.pin .rst .low], rx := s.rx.forget, results := rest }) ∧
    (s.rs = .rsHold → step s = .next { s with rs := .rsRelease, trace := s.trace ++ [.sleep 2] }) ∧
    (s.rs = .rsRelease → step s = .next { s with
      rs := .rsIdle, lvlRst := .driven .high, trace := s.trace ++ [.pin .rst .high], results := rest })

/-- The controller's bring-up table (R89), row by row; a failing configure or open raises its fault without an event. -/
def Obligations.ControllerTakesTheRowsOfBringUp : Prop :=
  ∀ s : State, s.fault = none → s.rs = .rsIdle → s.enc = .eIdle →
    (∀ rest, s.ctl = .cIdle → s.started = false → s.calls = .init :: rest →
      (s.dev = .ready → step s = .next { s with calls := rest }) ∧
      (s.dev = .destroyed → step s = .next (({ s with calls := rest, req := some .init }).raise .useAfterTeardown)) ∧
      (s.dev = .uninitialized → step s = .next { s with calls := rest, req := some .init, ctl := .cCfg })) ∧
    (∀ rest, s.started = false → s.results = true :: rest →
      (s.ctl = .cCfg → step s = .next { s with
        ctl := .cOpen, pinsCfg := true, trace := s.trace ++ [.cfgPins], results := rest }) ∧
      (s.ctl = .cOpen → step s = .next { s with
        ctl := .cEn, busOpen := true, trace := s.trace ++ [.busOpen s.cfg.clockHz], results := rest }) ∧
      (s.ctl = .cEn → step s = .next { s with
        ctl := .cReset, lvlEn := .driven .high, trace := s.trace ++ [.pin .en .high], results := rest })) ∧
    (∀ rest, s.started = false → s.results = false :: rest →
      (s.ctl = .cCfg → step s = .next (({ s with results := rest }).raise .fatalPinConfig)) ∧
      (s.ctl = .cOpen → step s = .next (({ s with results := rest }).raise .fatalBusOpen))) ∧
    (s.started = false →
      (s.ctl = .cReset → step s = .next { s with rs := .rsPre, started := true }) ∧
      (s.ctl = .cDigits → step s = .next { s with
        encShape := .f1, encOp := 0xE0#8, encBuf := [s.cfg.digits - 1#8], enc := .eAssert, started := true }) ∧
      (s.ctl = .cBright → step s = .next { s with
        encShape := .f1, encOp := 0xE4#8, encBuf := [0xFF#8], enc := .eAssert, started := true })) ∧
    (s.started = true →
      (s.ctl = .cReset → step s = .next { s with ctl := .cDigits, started := false }) ∧
      (s.ctl = .cDigits → step s = .next { s with ctl := .cBright, started := false }) ∧
      (s.ctl = .cBright → step s = .next { s with dev := .ready, ctl := .cIdle, started := false, req := none }))

/-- The controller's table for display operations (R109), row by row; `first` is the operation's first frame (R103 to
R108). -/
def Obligations.ControllerTakesTheRowsOfDisplayOperations : Prop :=
  ∀ (s : State) (r : Request), s.fault = none → s.rs = .rsIdle → s.enc = .eIdle → r.isDisplay = true → r.wf = true →
    (∀ rest, s.ctl = .cIdle → s.started = false → s.calls = r :: rest →
      (s.dev = .destroyed → step s = .next (({ s with calls := rest, req := some r }).raise .useAfterTeardown)) ∧
      (s.dev = .uninitialized → step s = .next (({ s with calls := rest, req := some r }).raise .notReady)) ∧
      (s.dev = .ready → step s = .next { s with calls := rest, req := some r, ctl := .cFrame })) ∧
    (s.req = some r → s.ctl = .cFrame → s.started = false →
      ∃ first, Request.firstCommand s.cfg r = some first ∧ step s = .next { s with
        encShape := first.shape, encOp := first.op, encBuf := first.payload, enc := .eAssert, started := true }) ∧
    (s.req = some r → s.ctl = .cFrame → s.started = true →
      ((∃ ms, r = .fullTest ms) → step s = .next { s with ctl := .cWait, started := false }) ∧
      ((∀ ms, r ≠ .fullTest ms) → step s = .next { s with ctl := .cIdle, started := false, req := none })) ∧
    (∀ ms, s.req = some (.fullTest ms) →
      (s.ctl = .cWait → s.started = false → step s = .next { s with ctl := .cFrame2, trace := s.trace ++ [.sleep ms] }) ∧
      (s.ctl = .cFrame2 → s.started = false → step s = .next { s with
        encShape := .f0, encOp := 0xE8#8, encBuf := [], enc := .eAssert, started := true }) ∧
      (s.ctl = .cFrame2 → s.started = true → step s = .next { s with ctl := .cIdle, started := false, req := none }))

/-- A step runs the wire command it receives: when the encoder releases chip-select and the call succeeds, the bytes of the
frame are decoded, and the step is `exec` of that instruction on the state after `Pin(CS, H)` (R74 row `E_RELEASE`, R113);
a frame that decodes to none is undefined (R122), and so is every frame that an out-of-range argument made (R59, log 29). -/
def Obligations.StepRunsTheReceivedFrame : Prop :=
  ∀ (s : State) (bytes : List Byte) (rest : List Bool),
    s.fault = none → s.rs = .rsIdle → s.enc = .eRelease → s.rxFrame = some bytes → s.results = true :: rest →
    (∀ i, s.misaddressed = false → decodeFrame bytes = .ok i →
      step s = exec i { s with
        lvlCs := .driven .high, enc := .eIdle, trace := s.trace ++ [.pin .cs .high], rxFrame := none, results := rest }) ∧
    ((s.misaddressed = true ∨ ∃ e, decodeFrame bytes = .error e) →
      step s = .next { s with
        lvlCs := .driven .high, enc := .eIdle, trace := s.trace ++ [.pin .cs .high],
        rx := { Rx.initial with undef := true }, rxFrame := none, results := rest })

/-- The steps of the sequencers run the requested operation (R100, R109, R89, R110): from a state that accepts requests with `r`
next, some number of steps gives exactly the outcome of `exec` of its instruction, faults and refusals included, and until then
the controller is away from `C_IDLE`, so no other request is taken.
The two levels and the list of requests are the model's choice (log 20, log 2), and so is the refusal of an ill-typed request
(log 12). -/
def Obligations.SequencerStepsRunTheRequestedOperation : Prop :=
  ∀ (s : State) (r : Request) (rest : List Request),
    s.fault = none → s.idle = true → s.calls = r :: rest →
    ∃ k, 0 < k ∧ Host.Core.run Sys2Proof.core k s = exec r.toInstr { s with calls := rest } ∧
      ∀ j, 0 < j → j < k → ∃ u : State, Host.Core.run Sys2Proof.core j s = .next u ∧ u.ctl ≠ .cIdle

/-- R27 and R31: in every state, a step emits at most one event, and no step removes or reorders an entry of the trace. -/
def Obligations.StepEmitsAtMostOneEvent : Prop :=
  ∀ s t : State, step s = .next t → t.trace = s.trace ∨ ∃ e, t.trace = s.trace ++ [e]

/-- R28, in a step without a fault: while the Reset Sequencer or the encoder is away from its idle position the controller does
not move; at most one of the three moves; `rs` leaves `RS_IDLE` only from `C_RESET`, and `enc` leaves `E_IDLE` only with the
command of the controller's position. (A fault sends the controller to `C_HALT`.) -/
def Obligations.AtMostOneSequencerMoves : Prop :=
  ∀ s t : State, step s = .next t → t.fault = none →
    ((s.rs ≠ .rsIdle ∨ s.enc ≠ .eIdle) → t.ctl = s.ctl) ∧
    (t.ctl = s.ctl ∨ (t.rs = s.rs ∧ t.enc = s.enc)) ∧ (t.rs = s.rs ∨ t.enc = s.enc) ∧
    (s.rs = .rsIdle → t.rs ≠ .rsIdle → s.ctl = .cReset ∧ t.rs = .rsPre) ∧
    (s.enc = .eIdle → t.enc ≠ .eIdle → t.enc = .eAssert ∧ ∃ c, s.expectedCommand = some c ∧
      t.encShape = c.shape ∧ t.encOp = c.op ∧ t.encBuf = c.payload)

/-- R24: in a step of a block that meets the invariant, `dev` moves only from Uninitialized to Ready and from Uninitialized or Ready to Destroyed. -/
def Obligations.DeviceStateMovesOnlyForward : Prop :=
  ∀ s t : State, s.Inv → step s = .next t →
    t.dev = s.dev ∨ (s.dev = .uninitialized ∧ t.dev = .ready) ∨
      ((s.dev = .uninitialized ∨ s.dev = .ready) ∧ t.dev = .destroyed)

/-- R21: the Configuration is read-only: no step and no operation writes any of its fields. -/
def Obligations.ConfigurationIsImmutable : Prop :=
  (∀ s t : State, step s = .next t → t.cfg = s.cfg) ∧ (∀ (i : Instr) (s t : State), exec i s = .next t → t.cfg = s.cfg)

/-! ### Invariants -/

/-- The block's invariant and the trace invariants hold at reset. -/
def Obligations.ResetMeetsTheInvariants : Prop :=
  State.reset.Inv ∧ State.reset.DisciplineOk ∧ State.reset.ObserverOk ∧ State.reset.LevelsOk ∧ State.reset.PulseOk

/-- Every step keeps the block's invariant: the device state, the handle, the sequencer positions, the latched request, the
encoder's registers and the fault stay in the combinations the tables allow (R24, R26 to R30, R69, R70). -/
def Obligations.StepKeepsTheBlockInvariant : Prop :=
  ∀ s t : State, s.Inv → step s = .next t → t.Inv

/-- A block that meets the invariant stops only where it must: a step is a next state, or the block is at `C_IDLE` with an
ill-typed request next and the step is its refusal (that the refusal stops the step is the model's choice, log 12), or a fault is
recorded and the step is the halt (log 9). -/
def Obligations.InvariantBlockIsNeverStuck : Prop :=
  ∀ s : State, s.Inv →
    (∃ t, step s = .next t) ∨
      (s.fault = none ∧ s.ctl = .cIdle ∧ (∃ r rest, s.calls = r :: rest ∧ r.wf = false) ∧ step s = .refused .badArgument) ∨
      (∃ f, s.fault = some f ∧ step s = .fault (.halted f))

/-- R75 and R76: every step keeps the chip-select discipline of the trace: each frame is one `Pin(CS, L)`, one or more bytes,
one `Pin(CS, H)`, with nothing between them but bytes. -/
def Obligations.StepKeepsChipSelectDiscipline : Prop :=
  ∀ s t : State, s.DisciplineOk → step s = .next t → t.DisciplineOk

/-- R111 to R113: every step keeps `rx` equal to the observer computed from the trace, cut short where a fault fell into a frame,
or knowing nothing after a frame that an out-of-range argument made (R59, log 29). Each step that emits an event moves the observer
by that event, and only the end of such a frame makes it undefined instead; a step without an event and without a fault leaves
it. -/
def Obligations.StepKeepsObserverOfTrace : Prop :=
  (∀ s t : State, s.ObserverOk → step s = .next t → t.ObserverOk) ∧
  (∀ (s t : State) (e : Event), step s = .next t → t.trace = s.trace ++ [e] →
    Observer.mk t.rx t.rxFrame =
      if e = .pin .cs .high ∧ s.rxFrame.isSome = true ∧ s.misaddressed = true then
        ⟨{ Rx.initial with undef := true }, none⟩
      else (Observer.mk s.rx s.rxFrame).event e) ∧
  (∀ s t : State, step s = .next t → t.trace = s.trace → t.fault = none → t.rx = s.rx ∧ t.rxFrame = s.rxFrame)

/-- R25, R130, R137: every step keeps the recorded level of each pin equal to the level the trace last drove it to, `X` for a pin
not driven; after a fault too, but for the pin whose SetPin failed, which is `X`. -/
def Obligations.StepKeepsRecordedLevels : Prop :=
  ∀ s t : State, s.LevelsOk → step s = .next t → t.LevelsOk

/-- R95, R155 and R158: every step keeps the reset pulse single, low before high, and complete before any frame event. -/
def Obligations.StepKeepsSingleResetPulse : Prop :=
  ∀ s t : State, s.Inv → s.PulseOk → step s = .next t → t.PulseOk

/-- R84 and R150: no step drives the enable pin low, and only `C_EN` drives it at all. -/
def Obligations.OnlyBringUpDrivesTheEnablePin : Prop :=
  ∀ (s t : State) (d : Drive), step s = .next t → t.trace = s.trace ++ [.pin .en d] → d = .high ∧ s.ctl = .cEn

/-- The type of R111: every step keeps the observer's digit count, where known, between 1 and 16; so does exec of every
instruction, and it holds at reset. -/
def Obligations.ObserverDigitCountStaysInRange : Prop :=
  State.reset.rx.DigitsOk ∧
  (∀ s t : State, s.rx.DigitsOk → step s = .next t → t.rx.DigitsOk) ∧
  (∀ (i : Instr) (s t : State), s.rx.DigitsOk → exec i s = .next t → t.rx.DigitsOk)

/-- R156: at a final state of a block that meets the trace invariants, every frame has been released: the trace stands outside every
frame, and chip-select is high if any frame was ever sent. -/
def Obligations.FinalStateHasReleasedEveryFrame : Prop :=
  ∀ s : State, s.DisciplineOk → s.LevelsOk → s.Final →
    csScan s.trace = .between ∧ (Event.pin .cs .low ∈ s.trace → s.lvlCs = .driven .high)

/-! ### Consequences for the display and for time -/

/-- R123, its last sentence: from a Ready block whose observer knows the configured digit count and has seen nothing undefined,
an operation with in-range arguments whose calls all succeed leaves the observer defined. -/
def Obligations.InRangeOperationsStayDefined : Prop :=
  ∀ (s t : State) (r : Request), s.Accepting → s.Operational → s.cfg.wf = true →
    s.rx.digits = some s.cfg.digits.toNat → s.rx.undef = false → r.isDisplay = true →
    (match r with
      | .writeChar position code => position < s.cfg.digits.toNat ∧ code < 256
      | .writeString start text =>
          start < s.cfg.digits.toNat ∧ start + ((text.map (BitVec.ofNat 8)).takeWhile (fun b => b != 0x00#8)).length ≤ s.cfg.digits.toNat ∧
          ∀ c ∈ text, c < 256
      | .loadCustomFont id data => id ≤ 15 ∧ data.length = 5 ∧ ∀ b ∈ data, b < 256
      | .setBrightness level => level < 256
      | .fullTest durationMs => durationMs < 2 ^ 32
      | _ => True) →
    exec r.toInstr s = .next t → t.fault = none →
    t.rx.undef = false ∧ t.rx.digits = some s.cfg.digits.toNat

/-- R120, with nothing undefined before (R122): with the lamp test on every segment of every cell is on; with it off, a cell below the digit count shows the known
custom glyph of its code `0x00` to `0x07`, the built-in glyph of a code `0x30` to `0x3F`, and blank for `0x20`. -/
def Obligations.DisplayShowsWhatTheCellHolds : Prop :=
  ∀ (rx : Rx) (p d : Nat) (code : Byte), rx.undef = false →
    (rx.lamp = some true → p < 16 → rx.shown p = .allSegments) ∧
    (rx.lamp = some false → rx.digits = some d → p < d → rx.cellAt p = some code →
      (∀ b0 b1 b2 b3 b4, code.toNat ≤ 7 → rx.glyphAt code.toNat 0 = some b0 → rx.glyphAt code.toNat 1 = some b1 →
        rx.glyphAt code.toNat 2 = some b2 → rx.glyphAt code.toNat 3 = some b3 → rx.glyphAt code.toNat 4 = some b4 →
        rx.shown p = .custom [b0, b1, b2, b3, b4]) ∧
      (0x30 ≤ code.toNat → code.toNat ≤ 0x3F → rx.shown p = .builtIn code) ∧
      (code = 0x20#8 → rx.shown p = .blank))

/-- R94 and R165: in the events a successful INIT adds, at least 2 ms of sleep lie between `Pin(EN, H)` and `Pin(RST, L)`, and at
least 2 ms while the reset pin is low. -/
def Obligations.InitHoldsResetLowTwoMilliseconds : Prop :=
  ∀ (s t : State) (rest : List Bool), s.Accepting → s.dev = .uninitialized → s.Succeeds 13 rest → exec .init s = .next t →
    ∃ before toReset low after,
      t.trace = before ++ [.pin .en .high] ++ toReset ++ [.pin .rst .low] ++ low ++ [.pin .rst .high] ++ after ∧
      2 ≤ minElapsedMs toReset ∧ 2 ≤ minElapsedMs low ∧ before = s.trace ++ [.cfgPins, .busOpen s.cfg.clockHz]
end

