-- ==== Sys2Proof/Laws/State.lean ====
section
/-! SUPPORT. What each update of the state does to each field. -/

namespace Sys2Proof.Machine

/-! ### `emit` -/

@[simp] theorem State.emit_cfg (e : Event) (s : State) : (s.emit e).cfg = s.cfg := rfl
@[simp] theorem State.emit_dev (e : Event) (s : State) : (s.emit e).dev = s.dev := rfl
@[simp] theorem State.emit_pinsCfg (e : Event) (s : State) : (s.emit e).pinsCfg = s.pinsCfg := rfl
@[simp] theorem State.emit_busOpen (e : Event) (s : State) : (s.emit e).busOpen = s.busOpen := rfl
@[simp] theorem State.emit_lvlCs (e : Event) (s : State) : (s.emit e).lvlCs = s.lvlCs := rfl
@[simp] theorem State.emit_lvlRst (e : Event) (s : State) : (s.emit e).lvlRst = s.lvlRst := rfl
@[simp] theorem State.emit_lvlEn (e : Event) (s : State) : (s.emit e).lvlEn = s.lvlEn := rfl
@[simp] theorem State.emit_ctl (e : Event) (s : State) : (s.emit e).ctl = s.ctl := rfl
@[simp] theorem State.emit_rs (e : Event) (s : State) : (s.emit e).rs = s.rs := rfl
@[simp] theorem State.emit_enc (e : Event) (s : State) : (s.emit e).enc = s.enc := rfl
@[simp] theorem State.emit_started (e : Event) (s : State) : (s.emit e).started = s.started := rfl
@[simp] theorem State.emit_req (e : Event) (s : State) : (s.emit e).req = s.req := rfl
@[simp] theorem State.emit_encShape (e : Event) (s : State) : (s.emit e).encShape = s.encShape := rfl
@[simp] theorem State.emit_encOp (e : Event) (s : State) : (s.emit e).encOp = s.encOp := rfl
@[simp] theorem State.emit_encBuf (e : Event) (s : State) : (s.emit e).encBuf = s.encBuf := rfl
@[simp] theorem State.emit_encIdx (e : Event) (s : State) : (s.emit e).encIdx = s.encIdx := rfl
@[simp] theorem State.emit_fault (e : Event) (s : State) : (s.emit e).fault = s.fault := rfl
@[simp] theorem State.emit_trace (e : Event) (s : State) : (s.emit e).trace = s.trace ++ [e] := rfl
@[simp] theorem State.emit_rx (e : Event) (s : State) : (s.emit e).rx = s.rx.onEvent e := rfl
@[simp] theorem State.emit_rxFrame (e : Event) (s : State) : (s.emit e).rxFrame = captureEvent e s.rxFrame := rfl
@[simp] theorem State.emit_calls (e : Event) (s : State) : (s.emit e).calls = s.calls := rfl
@[simp] theorem State.emit_results (e : Event) (s : State) : (s.emit e).results = s.results := rfl
@[simp] theorem State.emit_drawn (e : Event) (s : State) : (s.emit e).drawn = s.drawn := rfl

/-! ### `raise` -/

@[simp] theorem State.raise_cfg (k : FaultKind) (s : State) : (s.raise k).cfg = s.cfg := rfl
@[simp] theorem State.raise_dev (k : FaultKind) (s : State) : (s.raise k).dev = s.dev := rfl
@[simp] theorem State.raise_pinsCfg (k : FaultKind) (s : State) : (s.raise k).pinsCfg = s.pinsCfg := rfl
@[simp] theorem State.raise_busOpen (k : FaultKind) (s : State) : (s.raise k).busOpen = s.busOpen := rfl
@[simp] theorem State.raise_lvlCs (k : FaultKind) (s : State) : (s.raise k).lvlCs = s.lvlCs := rfl
@[simp] theorem State.raise_lvlRst (k : FaultKind) (s : State) : (s.raise k).lvlRst = s.lvlRst := rfl
@[simp] theorem State.raise_lvlEn (k : FaultKind) (s : State) : (s.raise k).lvlEn = s.lvlEn := rfl
@[simp] theorem State.raise_ctl (k : FaultKind) (s : State) : (s.raise k).ctl = .cHalt := rfl
@[simp] theorem State.raise_rs (k : FaultKind) (s : State) : (s.raise k).rs = s.rs := rfl
@[simp] theorem State.raise_enc (k : FaultKind) (s : State) : (s.raise k).enc = s.enc := rfl
@[simp] theorem State.raise_started (k : FaultKind) (s : State) : (s.raise k).started = s.started := rfl
@[simp] theorem State.raise_req (k : FaultKind) (s : State) : (s.raise k).req = s.req := rfl
@[simp] theorem State.raise_encShape (k : FaultKind) (s : State) : (s.raise k).encShape = s.encShape := rfl
@[simp] theorem State.raise_encOp (k : FaultKind) (s : State) : (s.raise k).encOp = s.encOp := rfl
@[simp] theorem State.raise_encBuf (k : FaultKind) (s : State) : (s.raise k).encBuf = s.encBuf := rfl
@[simp] theorem State.raise_encIdx (k : FaultKind) (s : State) : (s.raise k).encIdx = s.encIdx := rfl
@[simp] theorem State.raise_fault (k : FaultKind) (s : State) : (s.raise k).fault = some ⟨k, s.req, s.position⟩ := rfl
@[simp] theorem State.raise_trace (k : FaultKind) (s : State) : (s.raise k).trace = s.trace := rfl
@[simp] theorem State.raise_rx (k : FaultKind) (s : State) : (s.raise k).rx = if s.rxFrame.isSome then s.rx.undefined else s.rx := rfl
@[simp] theorem State.raise_rxFrame (k : FaultKind) (s : State) : (s.raise k).rxFrame = none := rfl
@[simp] theorem State.raise_calls (k : FaultKind) (s : State) : (s.raise k).calls = s.calls := rfl
@[simp] theorem State.raise_results (k : FaultKind) (s : State) : (s.raise k).results = s.results := rfl
@[simp] theorem State.raise_drawn (k : FaultKind) (s : State) : (s.raise k).drawn = s.drawn := rfl

/-! ### `setLevel` -/

@[simp] theorem State.setLevel_cfg (p : Pin) (lv : Level) (s : State) : (s.setLevel p lv).cfg = s.cfg := by cases p <;> rfl
@[simp] theorem State.setLevel_dev (p : Pin) (lv : Level) (s : State) : (s.setLevel p lv).dev = s.dev := by cases p <;> rfl
@[simp] theorem State.setLevel_pinsCfg (p : Pin) (lv : Level) (s : State) : (s.setLevel p lv).pinsCfg = s.pinsCfg := by cases p <;> rfl
@[simp] theorem State.setLevel_busOpen (p : Pin) (lv : Level) (s : State) : (s.setLevel p lv).busOpen = s.busOpen := by cases p <;> rfl
@[simp] theorem State.setLevel_lvlCs (p : Pin) (lv : Level) (s : State) : (s.setLevel p lv).lvlCs = if p = .cs then lv else s.lvlCs := by cases p <;> rfl
@[simp] theorem State.setLevel_lvlRst (p : Pin) (lv : Level) (s : State) : (s.setLevel p lv).lvlRst = if p = .rst then lv else s.lvlRst := by cases p <;> rfl
@[simp] theorem State.setLevel_lvlEn (p : Pin) (lv : Level) (s : State) : (s.setLevel p lv).lvlEn = if p = .en then lv else s.lvlEn := by cases p <;> rfl
@[simp] theorem State.setLevel_ctl (p : Pin) (lv : Level) (s : State) : (s.setLevel p lv).ctl = s.ctl := by cases p <;> rfl
@[simp] theorem State.setLevel_rs (p : Pin) (lv : Level) (s : State) : (s.setLevel p lv).rs = s.rs := by cases p <;> rfl
@[simp] theorem State.setLevel_enc (p : Pin) (lv : Level) (s : State) : (s.setLevel p lv).enc = s.enc := by cases p <;> rfl
@[simp] theorem State.setLevel_started (p : Pin) (lv : Level) (s : State) : (s.setLevel p lv).started = s.started := by cases p <;> rfl
@[simp] theorem State.setLevel_req (p : Pin) (lv : Level) (s : State) : (s.setLevel p lv).req = s.req := by cases p <;> rfl
@[simp] theorem State.setLevel_encShape (p : Pin) (lv : Level) (s : State) : (s.setLevel p lv).encShape = s.encShape := by cases p <;> rfl
@[simp] theorem State.setLevel_encOp (p : Pin) (lv : Level) (s : State) : (s.setLevel p lv).encOp = s.encOp := by cases p <;> rfl
@[simp] theorem State.setLevel_encBuf (p : Pin) (lv : Level) (s : State) : (s.setLevel p lv).encBuf = s.encBuf := by cases p <;> rfl
@[simp] theorem State.setLevel_encIdx (p : Pin) (lv : Level) (s : State) : (s.setLevel p lv).encIdx = s.encIdx := by cases p <;> rfl
@[simp] theorem State.setLevel_fault (p : Pin) (lv : Level) (s : State) : (s.setLevel p lv).fault = s.fault := by cases p <;> rfl
@[simp] theorem State.setLevel_trace (p : Pin) (lv : Level) (s : State) : (s.setLevel p lv).trace = s.trace := by cases p <;> rfl
@[simp] theorem State.setLevel_rx (p : Pin) (lv : Level) (s : State) : (s.setLevel p lv).rx = s.rx := by cases p <;> rfl
@[simp] theorem State.setLevel_rxFrame (p : Pin) (lv : Level) (s : State) : (s.setLevel p lv).rxFrame = s.rxFrame := by cases p <;> rfl
@[simp] theorem State.setLevel_calls (p : Pin) (lv : Level) (s : State) : (s.setLevel p lv).calls = s.calls := by cases p <;> rfl
@[simp] theorem State.setLevel_results (p : Pin) (lv : Level) (s : State) : (s.setLevel p lv).results = s.results := by cases p <;> rfl
@[simp] theorem State.setLevel_drawn (p : Pin) (lv : Level) (s : State) : (s.setLevel p lv).drawn = s.drawn := by cases p <;> rfl

@[simp] theorem State.setLevel_level (p q : Pin) (lv : Level) (s : State) :
    (s.setLevel p lv).level q = if q = p then lv else s.level q := by cases p <;> cases q <;> rfl

@[simp] theorem State.setLevel_position (p : Pin) (lv : Level) (s : State) :
    (s.setLevel p lv).position = s.position := by cases p <;> rfl

/-! ### `takeResult`: only the answers and the draw counter move -/

@[simp] theorem State.takeResult_cfg (s : State) : (s.takeResult).cfg = s.cfg := by unfold State.takeResult; split <;> simp_all
@[simp] theorem State.takeResult_dev (s : State) : (s.takeResult).dev = s.dev := by unfold State.takeResult; split <;> simp_all
@[simp] theorem State.takeResult_pinsCfg (s : State) : (s.takeResult).pinsCfg = s.pinsCfg := by unfold State.takeResult; split <;> simp_all
@[simp] theorem State.takeResult_busOpen (s : State) : (s.takeResult).busOpen = s.busOpen := by unfold State.takeResult; split <;> simp_all
@[simp] theorem State.takeResult_lvlCs (s : State) : (s.takeResult).lvlCs = s.lvlCs := by unfold State.takeResult; split <;> simp_all
@[simp] theorem State.takeResult_lvlRst (s : State) : (s.takeResult).lvlRst = s.lvlRst := by unfold State.takeResult; split <;> simp_all
@[simp] theorem State.takeResult_lvlEn (s : State) : (s.takeResult).lvlEn = s.lvlEn := by unfold State.takeResult; split <;> simp_all
@[simp] theorem State.takeResult_ctl (s : State) : (s.takeResult).ctl = s.ctl := by unfold State.takeResult; split <;> simp_all
@[simp] theorem State.takeResult_rs (s : State) : (s.takeResult).rs = s.rs := by unfold State.takeResult; split <;> simp_all
@[simp] theorem State.takeResult_enc (s : State) : (s.takeResult).enc = s.enc := by unfold State.takeResult; split <;> simp_all
@[simp] theorem State.takeResult_started (s : State) : (s.takeResult).started = s.started := by unfold State.takeResult; split <;> simp_all
@[simp] theorem State.takeResult_req (s : State) : (s.takeResult).req = s.req := by unfold State.takeResult; split <;> simp_all
@[simp] theorem State.takeResult_encShape (s : State) : (s.takeResult).encShape = s.encShape := by unfold State.takeResult; split <;> simp_all
@[simp] theorem State.takeResult_encOp (s : State) : (s.takeResult).encOp = s.encOp := by unfold State.takeResult; split <;> simp_all
@[simp] theorem State.takeResult_encBuf (s : State) : (s.takeResult).encBuf = s.encBuf := by unfold State.takeResult; split <;> simp_all
@[simp] theorem State.takeResult_encIdx (s : State) : (s.takeResult).encIdx = s.encIdx := by unfold State.takeResult; split <;> simp_all
@[simp] theorem State.takeResult_fault (s : State) : (s.takeResult).fault = s.fault := by unfold State.takeResult; split <;> simp_all
@[simp] theorem State.takeResult_trace (s : State) : (s.takeResult).trace = s.trace := by unfold State.takeResult; split <;> simp_all
@[simp] theorem State.takeResult_rx (s : State) : (s.takeResult).rx = s.rx := by unfold State.takeResult; split <;> simp_all
@[simp] theorem State.takeResult_rxFrame (s : State) : (s.takeResult).rxFrame = s.rxFrame := by unfold State.takeResult; split <;> simp_all
@[simp] theorem State.takeResult_calls (s : State) : (s.takeResult).calls = s.calls := by unfold State.takeResult; split <;> simp_all
@[simp] theorem State.takeResult_results (s : State) : (s.takeResult).results = s.results.tail := by unfold State.takeResult; split <;> simp_all
@[simp] theorem State.takeResult_drawn (s : State) : (s.takeResult).drawn = if s.results = [] then s.drawn + 1 else s.drawn := by unfold State.takeResult; split <;> simp_all

@[simp] theorem State.takeResult_position (s : State) : s.takeResult.position = s.position := by
  simp [State.position]

/-! ### `deliver`: only the observer moves -/

@[simp] theorem State.deliver_cfg (s : State) : s.deliver.cfg = s.cfg := by
  unfold State.deliver; split <;> simp_all
@[simp] theorem State.deliver_dev (s : State) : s.deliver.dev = s.dev := by
  unfold State.deliver; split <;> simp_all
@[simp] theorem State.deliver_pinsCfg (s : State) : s.deliver.pinsCfg = s.pinsCfg := by
  unfold State.deliver; split <;> simp_all
@[simp] theorem State.deliver_busOpen (s : State) : s.deliver.busOpen = s.busOpen := by
  unfold State.deliver; split <;> simp_all
@[simp] theorem State.deliver_lvlCs (s : State) : s.deliver.lvlCs = s.lvlCs := by
  unfold State.deliver; split <;> simp_all
@[simp] theorem State.deliver_lvlRst (s : State) : s.deliver.lvlRst = s.lvlRst := by
  unfold State.deliver; split <;> simp_all
@[simp] theorem State.deliver_lvlEn (s : State) : s.deliver.lvlEn = s.lvlEn := by
  unfold State.deliver; split <;> simp_all
@[simp] theorem State.deliver_ctl (s : State) : s.deliver.ctl = s.ctl := by
  unfold State.deliver; split <;> simp_all
@[simp] theorem State.deliver_rs (s : State) : s.deliver.rs = s.rs := by
  unfold State.deliver; split <;> simp_all
@[simp] theorem State.deliver_enc (s : State) : s.deliver.enc = s.enc := by
  unfold State.deliver; split <;> simp_all
@[simp] theorem State.deliver_started (s : State) : s.deliver.started = s.started := by
  unfold State.deliver; split <;> simp_all
@[simp] theorem State.deliver_req (s : State) : s.deliver.req = s.req := by
  unfold State.deliver; split <;> simp_all
@[simp] theorem State.deliver_encShape (s : State) : s.deliver.encShape = s.encShape := by
  unfold State.deliver; split <;> simp_all
@[simp] theorem State.deliver_encOp (s : State) : s.deliver.encOp = s.encOp := by
  unfold State.deliver; split <;> simp_all
@[simp] theorem State.deliver_encBuf (s : State) : s.deliver.encBuf = s.encBuf := by
  unfold State.deliver; split <;> simp_all
@[simp] theorem State.deliver_encIdx (s : State) : s.deliver.encIdx = s.encIdx := by
  unfold State.deliver; split <;> simp_all
@[simp] theorem State.deliver_fault (s : State) : s.deliver.fault = s.fault := by
  unfold State.deliver; split <;> simp_all
@[simp] theorem State.deliver_trace (s : State) : s.deliver.trace = s.trace := by
  unfold State.deliver; split <;> simp_all
@[simp] theorem State.deliver_rxFrame (s : State) : s.deliver.rxFrame = none := by
  unfold State.deliver; split <;> simp_all
@[simp] theorem State.deliver_calls (s : State) : s.deliver.calls = s.calls := by
  unfold State.deliver; split <;> simp_all
@[simp] theorem State.deliver_results (s : State) : s.deliver.results = s.results := by
  unfold State.deliver; split <;> simp_all
@[simp] theorem State.deliver_drawn (s : State) : s.deliver.drawn = s.drawn := by
  unfold State.deliver; split <;> simp_all

theorem State.deliver_of_some {s : State} {bytes : List Byte} (h : s.rxFrame = some bytes) :
    s.deliver = { s with rx := s.rx.receiveFrom s.misaddressed bytes, rxFrame := none } := by
  simp [State.deliver, h]

theorem State.deliver_of_none {s : State} (h : s.rxFrame = none) : s.deliver = s := by
  simp [State.deliver, h]

end Sys2Proof.Machine
end

