-- ==== Sys2Proof/Laws/Ops.lean ====
section
/-! SUPPORT. One lemma per shared operation, saying everything it can do: sequencing, the answers of capability calls,
driving a pin, transmitting a byte, configuring, opening and closing. -/

namespace Sys2Proof.Machine

/-! ### Sequencing -/

theorem State.andThen_of_none {s : State} (h : s.fault = none) (f : State → State) : s.andThen f = f s := by
  simp [State.andThen, h]

theorem State.andThen_of_some {s : State} {r : FaultRecord} (h : s.fault = some r) (f : State → State) :
    s.andThen f = s := by
  simp [State.andThen, h]

/-- `andThen` either goes on or stays where the fault is. -/
theorem State.andThen_cases (s : State) (f : State → State) :
    (s.fault = none ∧ s.andThen f = f s) ∨ (s.fault ≠ none ∧ s.andThen f = s) := by
  unfold State.andThen
  cases h : s.fault <;> simp

@[simp] theorem State.runAll_nil (s : State) : s.runAll [] = s := rfl

@[simp] theorem State.runAll_cons (s : State) (f : State → State) (fs : List (State → State)) :
    s.runAll (f :: fs) = (s.andThen f).runAll fs := rfl

/-- Without a fault the next part runs. -/
theorem State.runAll_step {s : State} (h : s.fault = none) (f : State → State) (fs : List (State → State)) :
    s.runAll (f :: fs) = (f s).runAll fs := by
  rw [State.runAll_cons, State.andThen_of_none h]

theorem State.runAll_append (s : State) (fs gs : List (State → State)) :
    s.runAll (fs ++ gs) = (s.runAll fs).runAll gs := by
  induction fs generalizing s with
  | nil => rfl
  | cons f fs ih => simp [ih]

/-- Once a fault is set, the rest of an operation is not run. -/
theorem State.runAll_of_some {s : State} {r : FaultRecord} (h : s.fault = some r) (fs : List (State → State)) :
    s.runAll fs = s := by
  induction fs with
  | nil => rfl
  | cons f fs ih => simp [State.andThen_of_some h, ih]

/-- A property that every part keeps is kept by the whole operation. -/
theorem State.runAll_keeps {P : State → Prop} {fs : List (State → State)} (hf : ∀ f ∈ fs, ∀ s, P s → P (f s))
    (s : State) (h : P s) : P (s.runAll fs) := by
  induction fs generalizing s with
  | nil => exact h
  | cons f fs ih =>
    rw [State.runAll_cons]
    refine ih (fun g hg => hf g (List.mem_cons_of_mem _ hg)) _ ?_
    rcases s.andThen_cases f with ⟨_, e⟩ | ⟨_, e⟩ <;> rw [e]
    · exact hf f List.mem_cons_self s h
    · exact h

/-! ### Capability calls -/

/-- A placed success is taken. -/
theorem State.attempt_of_success {s : State} {rest : List Bool} (h : s.results = true :: rest)
    (f g : State → State) : s.attempt f g = f { s with results := rest } := by
  simp [State.attempt, State.callResult, State.takeResult, h]

/-- A placed failure is taken. -/
theorem State.attempt_of_failure {s : State} {rest : List Bool} (h : s.results = false :: rest)
    (f g : State → State) : s.attempt f g = g { s with results := rest } := by
  simp [State.attempt, State.callResult, State.takeResult, h]

/-- A call succeeds or fails. -/
theorem State.attempt_cases (s : State) (f g : State → State) :
    s.attempt f g = f s.takeResult ∨ s.attempt f g = g s.takeResult := by
  unfold State.attempt
  split <;> simp

/-- `SetPin` drives the pin and emits its event, or leaves it unknown with PinSetError (R25, R130). -/
theorem State.setPin_cases (p : Pin) (d : Drive) (s : State) :
    s.setPin p d = (s.takeResult.setLevel p (.driven d)).emit (.pin p d) ∨
    s.setPin p d = (s.takeResult.setLevel p .unknown).raise .pinSetError :=
  s.attempt_cases _ _

theorem State.setPin_of_success {s : State} {rest : List Bool} (h : s.results = true :: rest) (p : Pin) (d : Drive) :
    s.setPin p d = (({ s with results := rest }).setLevel p (.driven d)).emit (.pin p d) :=
  State.attempt_of_success h _ _

theorem State.setPin_of_failure {s : State} {rest : List Bool} (h : s.results = false :: rest) (p : Pin) (d : Drive) :
    s.setPin p d = (({ s with results := rest }).setLevel p .unknown).raise .pinSetError :=
  State.attempt_of_failure h _ _

/-- `Tx` emits its event, or raises TxError with or without a call made (R130). -/
theorem State.tx_cases (b : Byte) (s : State) :
    s.tx b = s.takeResult.emit (.tx b) ∨ s.tx b = s.takeResult.raise .txError ∨ s.tx b = s.raise .txError := by
  unfold State.tx
  split
  · rcases s.attempt_cases (fun t => t.emit (.tx b)) (fun t => t.raise .txError) with h | h <;> simp [h]
  · simp

theorem State.tx_of_success {s : State} {rest : List Bool} (ho : s.busOpen = true) (h : s.results = true :: rest)
    (b : Byte) : s.tx b = ({ s with results := rest }).emit (.tx b) := by
  simp [State.tx, ho, State.attempt_of_success h]

theorem State.tx_of_failure {s : State} {rest : List Bool} (ho : s.busOpen = true) (h : s.results = false :: rest)
    (b : Byte) : s.tx b = ({ s with results := rest }).raise .txError := by
  simp [State.tx, ho, State.attempt_of_failure h]

/-- `CfgPins` emits its event and sets `pins_cfg`, or is fatal (R82). -/
theorem State.cfgPins_cases (s : State) :
    s.cfgPins = { s.takeResult.emit .cfgPins with pinsCfg := true } ∨
    s.cfgPins = s.takeResult.raise .fatalPinConfig :=
  s.attempt_cases _ _

/-- `BusOpen` emits its event and sets `bus_open`, or is fatal (R83). -/
theorem State.openBus_cases (s : State) :
    s.openBus = { s.takeResult.emit (.busOpen s.takeResult.cfg.clockHz) with busOpen := true } ∨
    s.openBus = s.takeResult.raise .fatalBusOpen :=
  s.attempt_cases _ _

/-- `close` emits its event if the handle was open and does nothing otherwise (R98). -/
theorem State.closeBus_cases (s : State) :
    (s.busOpen = true ∧ s.closeBus = { s.emit .busClose with busOpen := false }) ∨
    (s.busOpen = false ∧ s.closeBus = s) := by
  unfold State.closeBus
  cases h : s.busOpen <;> simp

end Sys2Proof.Machine
end

