-- ==== Sys2Proof/Laws/Encoder.lean ====
section
/-! SUPPORT. The encoder: each row when its call succeeds, a whole frame when every call succeeds, and what a frame leaves
unchanged whatever the calls answer. -/

namespace Sys2Proof.Machine

/-! ### Rows whose call succeeds -/

theorem encAssert_of_success {s : State} {rest : List Bool} (hf : s.fault = none) (hr : s.results = true :: rest) :
    encAssert s = { s with
      lvlCs := .driven .low, enc := .eOpcode, trace := s.trace ++ [.pin .cs .low], rxFrame := some [],
      results := rest } := by
  rw [encAssert, State.setPin_of_success hr, State.andThen_of_none (by simp [hf])]
  rfl

theorem encOpcode_of_success {s : State} {rest : List Bool} (hf : s.fault = none) (ho : s.busOpen = true)
    (hr : s.results = true :: rest) :
    encOpcode s = afterOpcode { s with
      trace := s.trace ++ [.tx s.encOp], rxFrame := s.rxFrame.map fun bytes => bytes ++ [s.encOp], results := rest } := by
  rw [encOpcode, State.tx_of_success ho hr, State.andThen_of_none (by simp [hf])]
  rfl

theorem encSingle_of_success {s : State} {rest : List Bool} (hf : s.fault = none) (ho : s.busOpen = true)
    (hr : s.results = true :: rest) (b : Byte) :
    encSingle b s = { s with
      encIdx := 1, enc := .eRelease, trace := s.trace ++ [.tx b], rxFrame := s.rxFrame.map fun bytes => bytes ++ [b],
      results := rest } := by
  rw [encSingle, State.tx_of_success ho hr, State.andThen_of_none (by simp [hf])]
  rfl

theorem encNext_of_success {s : State} {rest : List Bool} (hf : s.fault = none) (ho : s.busOpen = true)
    (hr : s.results = true :: rest) (b : Byte) :
    encNext b s = { s with
      encIdx := s.encIdx + 1, trace := s.trace ++ [.tx b], rxFrame := s.rxFrame.map fun bytes => bytes ++ [b],
      results := rest } := by
  rw [encNext, State.tx_of_success ho hr, State.andThen_of_none (by simp [hf])]
  rfl

theorem releaseCs_of_success {s : State} {rest : List Bool} (hf : s.fault = none) (hr : s.results = true :: rest) :
    releaseCs s = { s with
      lvlCs := .driven .high, enc := .eIdle, trace := s.trace ++ [.pin .cs .high], results := rest } := by
  rw [releaseCs, State.setPin_of_success hr, State.andThen_of_none (by simp [hf])]
  rfl

theorem encRelease_of_success {s : State} {rest : List Bool} {bytes : List Byte} (hf : s.fault = none)
    (hr : s.results = true :: rest) (hb : s.rxFrame = some bytes) :
    encRelease s = { s with
      lvlCs := .driven .high, enc := .eIdle, trace := s.trace ++ [.pin .cs .high], rx := s.rx.receiveFrom s.misaddressed bytes,
      rxFrame := none, results := rest } := by
  rw [encRelease, releaseCs_of_success hf hr, State.andThen_of_none (by simpa using hf),
    State.deliver_of_some (bytes := bytes) (by simpa using hb)]
  rfl

/-! ### The payload loop of FN -/

@[simp] theorem untilZero_nil : untilZero [] = [] := rfl

theorem untilZero_cons_zero (p : List Byte) : untilZero (terminator :: p) = [] := by
  simp [untilZero]

theorem untilZero_cons {b : Byte} (h : b ≠ terminator) (p : List Byte) : untilZero (b :: p) = b :: untilZero p := by
  simp [untilZero, h]

/-- The loop sends exactly `takeWhile(≠ 0x00, p)` (R73). -/
theorem sendUntilZero_of_success (p : List Byte) :
    ∀ (s : State) (rest : List Bool) (bytes : List Byte), s.fault = none → s.busOpen = true →
      s.results = List.replicate (untilZero p).length true ++ rest → s.rxFrame = some bytes →
      sendUntilZero p s = { s with
        encIdx := s.encIdx + (untilZero p).length
        enc := .eRelease
        trace := s.trace ++ (untilZero p).map Event.tx
        rxFrame := some (bytes ++ untilZero p)
        results := rest } := by
  induction p with
  | nil =>
    intro s rest bytes _ _ hr hb
    simp at hr
    simp [sendUntilZero, encStop, ← hr, ← hb]
  | cons b p ih =>
    intro s rest bytes hf ho hr hb
    by_cases hz : b = terminator
    · subst hz
      rw [untilZero_cons_zero] at hr ⊢
      simp at hr
      simp [sendUntilZero, encStop, ← hr, ← hb]
    · rw [untilZero_cons hz] at hr ⊢
      have hr' : s.results = true :: (List.replicate (untilZero p).length true ++ rest) := by
        simpa [List.replicate_succ] using hr
      rw [sendUntilZero, if_neg hz, encNext_of_success hf ho hr', State.andThen_of_none (by simpa using hf),
        ih _ rest (bytes ++ [b]) (by simpa using hf) (by simpa using ho) rfl (by simp [hb])]
      simp [Nat.add_comm, Nat.add_assoc]

/-! ### A whole frame -/

/-- `enc_idx` at the end of a frame: unwritten by F0, 1 after F1, the bytes sent after FN (R74). -/
def Command.idxAfter (old : Nat) : Command → Nat
  | .f0 _ => old
  | .f1 _ _ => 1
  | .fn _ p => (untilZero p).length

/-- The first three rows of every frame, when their calls succeed: chip-select is low and the opcode is sent. -/
theorem frame_head_of_success (c : Command) {s : State} {rest : List Bool} (hf : s.fault = none) (ho : s.busOpen = true)
    (hr : s.results = true :: true :: rest) (fs : List (State → State)) :
    s.runAll ([startEncoder c, encAssert, encOpcode] ++ fs) =
      (afterOpcode { s with
        lvlCs := .driven .low, enc := .eOpcode, started := true, encShape := c.shape, encOp := c.op,
        encBuf := c.payload, trace := s.trace ++ [.pin .cs .low, .tx c.op], rxFrame := some [c.op],
        results := rest }).runAll fs := by
  simp only [List.cons_append, List.nil_append]
  rw [State.runAll_step hf, State.runAll_step (by exact hf),
    encAssert_of_success (s := startEncoder c s) (rest := true :: rest) hf hr, State.runAll_step (by exact hf),
    encOpcode_of_success (rest := rest) (by exact hf) (by exact ho) rfl]
  simp [startEncoder]

/-- A frame whose calls all succeed: chip-select low, the command's bytes, chip-select high (R71 to R73). -/
theorem frame_of_success (c : Command) {s : State} {rest : List Bool} (hf : s.fault = none) (ho : s.busOpen = true)
    (hr : s.results = List.replicate (2 + c.bytes.length) true ++ rest) :
    frame c s = { s with
      lvlCs := .driven .high
      enc := .eIdle
      started := true
      encShape := c.shape
      encOp := c.op
      encBuf := c.payload
      encIdx := c.idxAfter s.encIdx
      trace := s.trace ++ frameEvents c.bytes
      rx := s.rx.receiveFrom s.misaddressed c.bytes
      rxFrame := none
      results := rest } := by
  unfold frame
  rw [List.append_assoc]
  cases c with
  | f0 op =>
    have h1 : s.results = true :: true :: true :: rest := by simpa [Command.bytes, List.replicate] using hr
    rw [frame_head_of_success _ hf ho h1]
    simp only [afterOpcode, Command.shape, sendPayload, List.nil_append]
    rw [State.runAll_step (by exact hf), encRelease_of_success (rest := rest) (bytes := [op]) (by exact hf) rfl rfl]
    simp [Command.payload, Command.idxAfter, Command.bytes, Command.op, frameEvents, State.misaddressed]
  | f1 op b =>
    have h1 : s.results = true :: true :: true :: true :: rest := by simpa [Command.bytes, List.replicate] using hr
    rw [frame_head_of_success _ hf ho h1]
    simp only [afterOpcode, Command.shape, sendPayload, List.cons_append, List.nil_append]
    rw [State.runAll_step (by exact hf), encSingle_of_success (rest := true :: rest) (by exact hf) (by exact ho) rfl,
      State.runAll_step (by exact hf), encRelease_of_success (rest := rest) (bytes := [op, b]) (by exact hf) rfl rfl]
    simp [Command.payload, Command.idxAfter, Command.bytes, Command.op, frameEvents, State.misaddressed]
  | fn op p =>
    have h1 : s.results = true :: true :: (List.replicate (untilZero p).length true ++ true :: rest) := by
      have e : 2 + (op :: untilZero p).length = (untilZero p).length + 1 + 1 + 1 := by
        simp only [List.length_cons]; omega
      rw [hr, Command.bytes, e, List.replicate_succ, List.replicate_succ, List.replicate_succ']
      simp
    rw [frame_head_of_success _ hf ho h1]
    simp only [afterOpcode, Command.shape, sendPayload, List.cons_append, List.nil_append]
    rw [State.runAll_step (by exact hf), sendUntilZero_of_success p _ (true :: rest) [op] (by exact hf) (by exact ho) rfl rfl,
      State.runAll_step (by exact hf), encRelease_of_success (rest := rest) (bytes := op :: untilZero p) (by exact hf) rfl rfl]
    simp [Command.payload, Command.idxAfter, Command.bytes, Command.op, frameEvents, State.misaddressed]

/-! ### What a frame leaves unchanged, whatever the calls answer -/

/-- The fields no encoder row writes, faults included. -/
structure EncoderKeeps (s t : State) : Prop where
  cfg : t.cfg = s.cfg
  dev : t.dev = s.dev
  pinsCfg : t.pinsCfg = s.pinsCfg
  busOpen : t.busOpen = s.busOpen
  lvlRst : t.lvlRst = s.lvlRst
  lvlEn : t.lvlEn = s.lvlEn
  rs : t.rs = s.rs
  req : t.req = s.req
  calls : t.calls = s.calls

theorem EncoderKeeps.rfl' (s : State) : EncoderKeeps s s := ⟨rfl, rfl, rfl, rfl, rfl, rfl, rfl, rfl, rfl⟩

theorem EncoderKeeps.after {s t u : State} (h : EncoderKeeps s t) (k : EncoderKeeps t u) : EncoderKeeps s u :=
  ⟨k.cfg.trans h.cfg, k.dev.trans h.dev, k.pinsCfg.trans h.pinsCfg, k.busOpen.trans h.busOpen,
    k.lvlRst.trans h.lvlRst, k.lvlEn.trans h.lvlEn, k.rs.trans h.rs, k.req.trans h.req, k.calls.trans h.calls⟩

theorem EncoderKeeps.andThen {s t : State} (h : EncoderKeeps s t) {f : State → State}
    (hf : ∀ u, EncoderKeeps u (f u)) : EncoderKeeps s (t.andThen f) := by
  rcases t.andThen_cases f with ⟨_, e⟩ | ⟨_, e⟩ <;> rw [e]
  · exact h.after (hf t)
  · exact h

theorem encoderKeeps_setPin_cs (d : Drive) (s : State) : EncoderKeeps s (s.setPin .cs d) := by
  rcases s.setPin_cases .cs d with e | e <;> rw [e] <;> constructor <;> simp

theorem encoderKeeps_tx (b : Byte) (s : State) : EncoderKeeps s (s.tx b) := by
  rcases s.tx_cases b with e | e | e <;> rw [e] <;> constructor <;> simp

theorem encoderKeeps_afterOpcode (s : State) : EncoderKeeps s (afterOpcode s) := by
  unfold afterOpcode
  split <;> constructor <;> rfl

theorem encoderKeeps_encAssert (s : State) : EncoderKeeps s (encAssert s) :=
  (encoderKeeps_setPin_cs .low s).andThen fun _ => by constructor <;> rfl

theorem encoderKeeps_encOpcode (s : State) : EncoderKeeps s (encOpcode s) :=
  (encoderKeeps_tx s.encOp s).andThen encoderKeeps_afterOpcode

theorem encoderKeeps_encSingle (b : Byte) (s : State) : EncoderKeeps s (encSingle b s) :=
  (encoderKeeps_tx b s).andThen fun _ => by constructor <;> rfl

theorem encoderKeeps_encNext (b : Byte) (s : State) : EncoderKeeps s (encNext b s) :=
  (encoderKeeps_tx b s).andThen fun _ => by constructor <;> rfl

theorem encoderKeeps_encStop (s : State) : EncoderKeeps s (encStop s) := by constructor <;> rfl

theorem encoderKeeps_releaseCs (s : State) : EncoderKeeps s (releaseCs s) :=
  (encoderKeeps_setPin_cs .high s).andThen fun _ => by constructor <;> rfl

theorem encoderKeeps_encRelease (s : State) : EncoderKeeps s (encRelease s) :=
  (encoderKeeps_releaseCs s).andThen fun _ => by constructor <;> simp

theorem encoderKeeps_sendUntilZero (p : List Byte) : ∀ s : State, EncoderKeeps s (sendUntilZero p s) := by
  induction p with
  | nil => exact encoderKeeps_encStop
  | cons b p ih =>
    intro s
    rw [sendUntilZero]
    split
    · exact encoderKeeps_encStop s
    · exact (encoderKeeps_encNext b s).andThen ih

/-- A frame, completed or cut short, writes none of these fields. -/
theorem encoderKeeps_frame (c : Command) (s : State) : EncoderKeeps s (frame c s) := by
  unfold frame
  refine State.runAll_keeps (P := EncoderKeeps s) ?_ s (EncoderKeeps.rfl' s)
  intro f hf u hu
  refine hu.after ?_
  cases c <;> simp [sendPayload] at hf <;>
    rcases hf with rfl | rfl | rfl | rfl | rfl <;>
    first
    | exact encoderKeeps_encAssert u
    | exact encoderKeeps_encOpcode u
    | exact encoderKeeps_encRelease u
    | exact encoderKeeps_encSingle _ u
    | exact encoderKeeps_sendUntilZero _ u
    | (constructor <;> rfl)

end Sys2Proof.Machine
end

