-- ==== Sys2Proof/Laws/Admission.lean ====
section
/-! SUPPORT. Accepting a request: when it is taken, and what a whole display operation with one frame comes to. -/

namespace Sys2Proof.Machine

/-- The block is idle exactly when its three sequencers are at rest and nothing is started. -/
theorem State.idle_iff (s : State) :
    s.idle = true ↔ s.ctl = .cIdle ∧ s.rs = .rsIdle ∧ s.enc = .eIdle ∧ s.started = false := by
  simp [State.idle, State.subIdle, and_assoc]

/-- The block is at step `c` exactly when the controller is there and nothing is started. -/
theorem State.atStep_iff (c : Ctl) (s : State) :
    s.atStep c = true ↔ s.ctl = c ∧ s.rs = .rsIdle ∧ s.enc = .eIdle ∧ s.started = false := by
  simp [State.atStep, State.subIdle, and_assoc]

/-- A well-typed request to an idle block is taken. -/
theorem request_taken {r : Request} {taken : State → State} {s : State} (hf : s.fault = none) (hi : s.idle = true)
    (hw : r.wf = true) : request r taken s = .next (taken s) := by
  simp [request, hf, hi, hw]

/-- Everything a request can come to (R27, R132, R139). -/
theorem request_cases (r : Request) (taken : State → State) (s : State) :
    (∃ f, s.fault = some f ∧ request r taken s = .fault (.halted f)) ∨
    (s.fault = none ∧ s.idle = false ∧ request r taken s = .refused .busy) ∨
    (s.fault = none ∧ s.idle = true ∧ r.wf = false ∧ request r taken s = .refused .badArgument) ∨
    (s.fault = none ∧ s.idle = true ∧ r.wf = true ∧ request r taken s = .next (taken s)) := by
  unfold request
  cases hf : s.fault <;> cases hi : s.idle <;> cases hw : r.wf <;> simp

theorem acceptDisplay_of_ready {s : State} (h : s.dev = .ready) (r : Request) :
    acceptDisplay r s = { s with req := some r, ctl := .cFrame } := by
  simp [acceptDisplay, h, latch]

theorem acceptDisplay_of_uninitialized {s : State} (h : s.dev = .uninitialized) (r : Request) :
    acceptDisplay r s = ({ s with req := some r }).raise .notReady := by
  simp [acceptDisplay, h, latch]

theorem acceptDisplay_of_destroyed {s : State} (h : s.dev = .destroyed) (r : Request) :
    acceptDisplay r s = ({ s with req := some r }).raise .useAfterTeardown := by
  simp [acceptDisplay, h, latch]

/-- A display operation of one frame, from a Ready and idle block with every call succeeding (R100, R109). -/
theorem displayOp_single_of_success (r : Request) (c : Command) {s : State} {rest : List Bool} (hf : s.fault = none)
    (hi : s.idle = true) (hx : s.rxFrame = none) (hd : s.dev = .ready) (ho : s.busOpen = true) (hw : r.wf = true)
    (hr : s.results = List.replicate (2 + c.bytes.length) true ++ rest) :
    displayOp r [frame c] s = .next { s with
      lvlCs := .driven .high
      req := none
      encShape := c.shape
      encOp := c.op
      encBuf := c.payload
      encIdx := c.idxAfter s.encIdx
      trace := s.trace ++ frameEvents c.bytes
      rx := s.rx.receiveFrom (Request.outOfRange s.cfg r) c.bytes
      results := rest } := by
  rw [displayOp, request_taken hf hi hw]
  obtain ⟨h1, h2, h3, h4⟩ := s.idle_iff.1 hi
  simp only [List.cons_append, List.nil_append]
  rw [State.runAll_step hf, acceptDisplay_of_ready hd, State.runAll_step (by exact hf),
    frame_of_success c (rest := rest) (by exact hf) (by exact ho) (by exact hr), State.runAll_step (by exact hf)]
  simp [opDone, h1, h3, h4, hx, State.misaddressed]

end Sys2Proof.Machine
end

