-- ==== Sys2Proof/Laws/Decode.lean ====
section
/-! SUPPORT. The decoder against the encoder: each wire command decodes from its frame, and a frame decodes to wire commands
only. -/

namespace Sys2Proof

/-! ### The opcode layouts (R56) -/

theorem cell_layout_mask (p : Nibble) : (0x2#4 ++ p : Byte) &&& 0xF0#8 = opCell := by
  revert p; decide

theorem cell_layout_field (p : Nibble) : (0x2#4 ++ p : Byte).extractLsb' 0 4 = p := by
  revert p; decide

theorem glyph_layout_mask (i : Nibble) : (0x4#4 ++ i : Byte) &&& 0xF0#8 = opGlyph := by
  revert i; decide

theorem glyph_layout_field (i : Nibble) : (0x4#4 ++ i : Byte).extractLsb' 0 4 = i := by
  revert i; decide

/-- A byte whose high nibble is that of the cell opcodes is the cell layout of its low nibble. -/
theorem cell_layout_of_mask : ∀ op : Byte, op &&& 0xF0#8 = opCell → (0x2#4 ++ op.extractLsb' 0 4 : Byte) = op := by
  decide

/-- A byte whose high nibble is that of the glyph opcodes is the glyph layout of its low nibble. -/
theorem glyph_layout_of_mask : ∀ op : Byte, op &&& 0xF0#8 = opGlyph → (0x4#4 ++ op.extractLsb' 0 4 : Byte) = op := by
  decide

/-! ### Decoding what was encoded -/

theorem decode_cellWrite (p : Nibble) (codes : List Byte) :
    decodeFrame ((0x2#4 ++ p) :: codes) = .ok (.cellWrite p codes) := by
  rw [decodeFrame, if_pos (cell_layout_mask p), cell_layout_field]

theorem decode_glyphWrite (i : Nibble) (bitmap : List Byte) (h : bitmap.length ≤ 5) :
    decodeFrame ((0x4#4 ++ i) :: bitmap) = .ok (.glyphWrite i bitmap) := by
  rw [decodeFrame, glyph_layout_mask, if_neg (by decide), if_pos rfl, if_pos h, glyph_layout_field]

theorem decode_setDigits (n : Byte) : decodeFrame [opSetDigits, n] = .ok (.setDigits n) := rfl

theorem decode_setBrightnessCmd (v : Byte) : decodeFrame [opBrightness, v] = .ok (.setBrightnessCmd v) := rfl

theorem decode_normal : decodeFrame [opNormal] = .ok .normal := rfl

theorem decode_lampTest : decodeFrame [opLampTest] = .ok .lampTest := rfl

/-! ### What can be decoded -/

theorem decodeOne_ok {make : Byte → Instr} {op : Byte} {payload : List Byte} {i : Instr}
    (h : decodeOne make op payload = .ok i) : ∃ b, payload = [b] ∧ i = make b := by
  unfold decodeOne at h
  split at h
  · exact ⟨_, rfl, (Except.ok.inj h).symm⟩
  · cases h

theorem decodeBare_ok {i j : Instr} {op : Byte} {payload : List Byte}
    (h : decodeBare i op payload = .ok j) : payload = [] ∧ j = i := by
  unfold decodeBare at h
  split at h
  · exact ⟨rfl, (Except.ok.inj h).symm⟩
  · cases h

/-- The six ways a frame decodes (R62). -/
theorem decodeFrame_cases {bytes : List Byte} {i : Instr} (h : decodeFrame bytes = .ok i) :
    (∃ op payload, bytes = op :: payload ∧ op &&& 0xF0#8 = opCell ∧ i = .cellWrite (op.extractLsb' 0 4) payload) ∨
    (∃ op payload, bytes = op :: payload ∧ op &&& 0xF0#8 = opGlyph ∧ payload.length ≤ 5 ∧
      i = .glyphWrite (op.extractLsb' 0 4) payload) ∨
    (∃ n, bytes = [opSetDigits, n] ∧ i = .setDigits n) ∨
    (∃ v, bytes = [opBrightness, v] ∧ i = .setBrightnessCmd v) ∨
    (bytes = [opNormal] ∧ i = .normal) ∨ (bytes = [opLampTest] ∧ i = .lampTest) := by
  cases bytes with
  | nil => cases h
  | cons op payload =>
    rw [decodeFrame] at h
    split_ifs at h with h1 h2 h3 h4 h5 h6 h7
    · exact .inl ⟨op, payload, rfl, h1, (Except.ok.inj h).symm⟩
    · exact .inr (.inl ⟨op, payload, rfl, h2, h3, (Except.ok.inj h).symm⟩)
    · obtain ⟨b, rfl, rfl⟩ := decodeOne_ok h
      exact .inr (.inr (.inl ⟨b, by rw [h4], rfl⟩))
    · obtain ⟨b, rfl, rfl⟩ := decodeOne_ok h
      exact .inr (.inr (.inr (.inl ⟨b, by rw [h5], rfl⟩)))
    · obtain ⟨rfl, rfl⟩ := decodeBare_ok h
      exact .inr (.inr (.inr (.inr (.inl ⟨by rw [h6], rfl⟩))))
    · obtain ⟨rfl, rfl⟩ := decodeBare_ok h
      exact .inr (.inr (.inr (.inr (.inr ⟨by rw [h7], rfl⟩))))

/-- Only wire commands are decoded from frames (R64). -/
theorem decodeFrame_isWire {bytes : List Byte} {i : Instr} (h : decodeFrame bytes = .ok i) : i.isWire = true := by
  rcases decodeFrame_cases h with ⟨_, _, _, _, rfl⟩ | ⟨_, _, _, _, _, rfl⟩ | ⟨_, _, rfl⟩ | ⟨_, _, rfl⟩ | ⟨_, rfl⟩ |
    ⟨_, rfl⟩ <;> rfl

end Sys2Proof
end

