-- ==== Sys2Proof/Laws/Lifecycle.lean ====
section
/-! SUPPORT. The rows of bring-up and of the Reset Sequencer when their calls succeed, and the observer's fold along a
trace. -/

namespace Sys2Proof.Machine

/-! ### Rows whose call succeeds -/

theorem cfgRow_of_success {s : State} {rest : List Bool} (hf : s.fault = none) (hr : s.results = true :: rest) :
    cfgRow s = { s with ctl := .cOpen, pinsCfg := true, trace := s.trace ++ [.cfgPins], results := rest } := by
  rw [cfgRow, State.cfgPins, State.attempt_of_success hr, State.andThen_of_none (by exact hf)]
  rfl

theorem cfgRow_of_failure {s : State} {rest : List Bool} (hr : s.results = false :: rest) :
    cfgRow s = ({ s with results := rest }).raise .fatalPinConfig := by
  rw [cfgRow, State.cfgPins, State.attempt_of_failure hr, State.andThen_of_some rfl]

theorem openRow_of_success {s : State} {rest : List Bool} (hf : s.fault = none) (hr : s.results = true :: rest) :
    openRow s = { s with
      ctl := .cEn, busOpen := true, trace := s.trace ++ [.busOpen s.cfg.clockHz], results := rest } := by
  rw [openRow, State.openBus, State.attempt_of_success hr, State.andThen_of_none (by exact hf)]
  rfl

theorem openRow_of_failure {s : State} {rest : List Bool} (hr : s.results = false :: rest) :
    openRow s = ({ s with results := rest }).raise .fatalBusOpen := by
  rw [openRow, State.openBus, State.attempt_of_failure hr, State.andThen_of_some rfl]

theorem enRow_of_success {s : State} {rest : List Bool} (hf : s.fault = none) (hr : s.results = true :: rest) :
    enRow s = { s with
      ctl := .cReset, lvlEn := .driven .high, trace := s.trace ++ [.pin .en .high], results := rest } := by
  rw [enRow, State.setPin_of_success hr, State.andThen_of_none (by exact hf)]
  rfl

theorem rsAssertRow_of_success {s : State} {rest : List Bool} (hf : s.fault = none) (hr : s.results = true :: rest) :
    rsAssertRow s = { s with
      rs := .rsHold, lvlRst := .driven .low, trace := s.trace ++ [.pin .rst .low], rx := s.rx.forget,
      results := rest } := by
  rw [rsAssertRow, State.setPin_of_success hr, State.andThen_of_none (by exact hf)]
  rfl

theorem rsReleaseRow_of_success {s : State} {rest : List Bool} (hf : s.fault = none) (hr : s.results = true :: rest) :
    rsReleaseRow s = { s with
      rs := .rsIdle, lvlRst := .driven .high, trace := s.trace ++ [.pin .rst .high], results := rest } := by
  rw [rsReleaseRow, State.setPin_of_success hr, State.andThen_of_none (by exact hf)]
  rfl

theorem rsPreRow_eq (s : State) :
    rsPreRow s = { s with rs := .rsAssert, trace := s.trace ++ [.sleep 2] } := rfl

theorem rsHoldRow_eq (s : State) :
    rsHoldRow s = { s with rs := .rsRelease, trace := s.trace ++ [.sleep 2] } := rfl

/-- The reset sequence whose calls both succeed (R92). -/
theorem resetPulse_of_success {s : State} {rest : List Bool} (hf : s.fault = none)
    (hr : s.results = true :: true :: rest) :
    resetPulse s = { s with
      rs := .rsIdle
      started := true
      lvlRst := .driven .high
      trace := s.trace ++ [.sleep 2, .pin .rst .low, .sleep 2, .pin .rst .high]
      rx := s.rx.forget
      results := rest } := by
  unfold resetPulse
  rw [State.runAll_step hf, State.runAll_step (by exact hf), rsPreRow_eq, State.runAll_step (by exact hf),
    rsAssertRow_of_success (rest := true :: rest) (by exact hf) (by exact hr), State.runAll_step (by exact hf),
    rsHoldRow_eq, State.runAll_step (by exact hf), rsReleaseRow_of_success (rest := rest) (by exact hf) rfl]
  simp [startReset]

/-! ### The observer along a trace (R113) -/

theorem Observer.ofTrace_append (trace : List Event) (e : Event) :
    Observer.ofTrace (trace ++ [e]) = (Observer.ofTrace trace).event e := by
  simp [Observer.ofTrace]

/-- Emitting any event but the end of a frame moves the observer by that event. -/
theorem observer_emit {e : Event} (h : e ≠ .pin .cs .high) (s : State) :
    Observer.mk (s.emit e).rx (s.emit e).rxFrame = (Observer.mk s.rx s.rxFrame).event e := by
  cases e with
  | pin p d => cases p <;> cases d <;> first | rfl | exact absurd rfl h
  | _ => rfl

/-- The end of a frame that no out-of-range argument made moves the observer by its event once the frame is delivered. -/
theorem observer_deliver {s : State} (hm : s.misaddressed = false) :
    Observer.mk (s.emit (.pin .cs .high)).deliver.rx (s.emit (.pin .cs .high)).deliver.rxFrame =
      (Observer.mk s.rx s.rxFrame).event (.pin .cs .high) := by
  cases h : s.rxFrame with
  | none =>
    rw [State.deliver_of_none (by simpa [captureEvent] using h)]
    simp [Observer.event, Rx.onEvent, captureEvent, h]
  | some bytes =>
    rw [State.deliver_of_some (bytes := bytes) (by simpa [captureEvent] using h)]
    have e : (s.emit (.pin .cs .high)).misaddressed = s.misaddressed := rfl
    simp [Observer.event, Rx.onEvent, Rx.receiveFrom, e, hm]

end Sys2Proof.Machine
end

