-- ==== Sys2Proof/Laws/PerInstr.lean ====
section
/-! SUPPORT. Statements about every instruction, one lemma per constructor.

`FrameBytes`: every frame of an instruction sends at least its opcode ("No frame sends 0 bytes", R77). -/

namespace Sys2Proof.Laws.FrameBytes

/-- No frame of the instruction is empty, whatever the Configuration (R77). -/
def Statement (i : Instr) : Prop := ∀ c : Configuration, ∀ f ∈ encode c i, 1 ≤ f.length

theorem init : Statement .init := by intro c f h; simp [encode] at h; rcases h with rfl | rfl <;> simp
theorem initSetDigits : Statement .initSetDigits := by intro c f h; simp [encode] at h; simp [h]
theorem initBrightness : Statement .initBrightness := by intro c f h; simp [encode] at h; simp [h]
theorem resetSequence : Statement .resetSequence := by intro c f h; simp [encode] at h
theorem teardown : Statement .teardown := by intro c f h; simp [encode] at h
theorem writeChar (position code : Nat) : Statement (.writeChar position code) := by
  intro c f h; simp [encode] at h; simp [h]
theorem writeString (start : Nat) (text : List Nat) : Statement (.writeString start text) := by
  intro c f h; simp [encode] at h; simp [h]
theorem loadCustomFont (id : Nat) (data : List Nat) : Statement (.loadCustomFont id data) := by
  intro c f h; simp [encode] at h; simp [h]
theorem setBrightness (level : Nat) : Statement (.setBrightness level) := by
  intro c f h; simp [encode] at h; simp [h]
theorem fullTest (durationMs : Nat) : Statement (.fullTest durationMs) := by
  intro c f h; simp [encode] at h; rcases h with rfl | rfl <;> simp
theorem clear : Statement .clear := by intro c f h; simp [encode] at h; simp [h]
theorem cellWrite (p : Nibble) (codes : List Byte) : Statement (.cellWrite p codes) := by
  intro c f h; simp [encode] at h; simp [h]
theorem glyphWrite (i : Nibble) (bitmap : List Byte) : Statement (.glyphWrite i bitmap) := by
  intro c f h; simp [encode] at h; simp [h]
theorem setDigits (n : Byte) : Statement (.setDigits n) := by intro c f h; simp [encode] at h; simp [h]
theorem setBrightnessCmd (v : Byte) : Statement (.setBrightnessCmd v) := by intro c f h; simp [encode] at h; simp [h]
theorem normal : Statement .normal := by intro c f h; simp [encode] at h; simp [h]
theorem lampTest : Statement .lampTest := by intro c f h; simp [encode] at h; simp [h]

end Sys2Proof.Laws.FrameBytes
end

