-- ==== Sys2Proof/Laws/Receiver.lean ====
section
/-! SUPPORT. The observer: what a cell run and a glyph slot hold after a write, and what an undefined frame leaves. -/

namespace Sys2Proof.Machine

/-! ### Unknown everywhere -/

@[simp] theorem Rx.initial_cellAt (p : Nat) : Rx.initial.cellAt p = none := by
  unfold Rx.cellAt Rx.initial
  by_cases h : p < 16 <;> simp [h]

@[simp] theorem Rx.initial_glyphAt (i j : Nat) : Rx.initial.glyphAt i j = none := by
  unfold Rx.glyphAt Rx.initial
  by_cases h : i < 16 <;> by_cases h' : j < 5 <;> simp [h, h']

/-- An undefined frame leaves the unknown observer with `undef` set (R122). -/
theorem Rx.undefined_eq (rx : Rx) : rx.undefined = { Rx.initial with undef := true } := rfl

/-- The reset pulse leaves the unknown observer with `undef` as it was (R112). -/
theorem Rx.forget_eq (rx : Rx) : rx.forget = { Rx.initial with undef := rx.undef } := rfl

/-! ### Cell runs (R114) -/

/-- A run leaves every cell before its start. -/
theorem writeRun_before (codes : List Byte) :
    ∀ (cell : Vector (Option Byte) 16) (p q : Nat), q < p → (writeRun cell p codes)[q]? = cell[q]? := by
  induction codes with
  | nil => intro cell p q _; rfl
  | cons code codes ih =>
    intro cell p q h
    rw [writeRun, ih _ _ _ (by omega)]
    simp [show p ≠ q by omega]

/-- A run leaves every cell from its end on. -/
theorem writeRun_after (codes : List Byte) :
    ∀ (cell : Vector (Option Byte) 16) (p q : Nat), p + codes.length ≤ q → (writeRun cell p codes)[q]? = cell[q]? := by
  induction codes with
  | nil => intro cell p q _; rfl
  | cons code codes ih =>
    intro cell p q h
    simp only [List.length_cons] at h
    rw [writeRun, ih _ _ _ (by omega)]
    simp [show p ≠ q by omega]

/-- A run within the sixteen cells writes its codes in order. -/
theorem writeRun_at (codes : List Byte) :
    ∀ (cell : Vector (Option Byte) 16) (p j : Nat), p + codes.length ≤ 16 → j < codes.length →
      (writeRun cell p codes)[p + j]? = some codes[j]? := by
  induction codes with
  | nil => intro cell p j _ h; simp at h
  | cons code codes ih =>
    intro cell p j hp hj
    simp only [List.length_cons] at hp hj
    rw [writeRun]
    cases j with
    | zero =>
      rw [writeRun_before _ _ _ _ (by omega)]
      simp [show p < 16 by omega]
    | succ j =>
      have := ih (cell.setIfInBounds p (some code)) (p + 1) j (by omega) (by omega)
      rw [show p + (j + 1) = p + 1 + j by omega, this]
      simp

/-! ### Effects while nothing undefined has occurred (R122) -/

@[simp] theorem Rx.whileDefined_of_defined {rx : Rx} (h : rx.undef = false) (effect : Rx → Rx) :
    rx.whileDefined effect = effect rx := by
  simp [Rx.whileDefined, h]

@[simp] theorem Rx.whileDefined_of_undef {rx : Rx} (h : rx.undef = true) (effect : Rx → Rx) :
    rx.whileDefined effect = rx.undefined := by
  simp [Rx.whileDefined, h]

/-- Everything an effect can come to. -/
theorem Rx.whileDefined_cases (effect : Rx → Rx) (rx : Rx) :
    (rx.undef = false ∧ rx.whileDefined effect = effect rx) ∨ (rx.undef = true ∧ rx.whileDefined effect = rx.undefined) := by
  cases h : rx.undef <;> simp [h]

/-- `undef` is sticky: no wire command knows anything after it (log 28). -/
theorem Rx.apply_of_undef {i : Instr} (h : i.isWire = true) {rx : Rx} (hu : rx.undef = true) :
    rx.apply i = rx.undefined := by
  cases i <;> first
    | (cases h; done)
    | simp [Rx.apply, Rx.cellWrite, Rx.glyphWrite, Rx.setDigits, Rx.setBrightness, Rx.lampTest, Rx.normal, hu]

/-- A cell write within the known digit count writes its run (R114). -/
theorem Rx.cellWrite_within {rx : Rx} {p : Nibble} {codes : List Byte} {d : Nat} (hu : rx.undef = false)
    (hd : rx.digits = some d) (hp : p.toNat < d) (hk : p.toNat + codes.length ≤ d) :
    rx.cellWrite p codes = { rx with cell := writeRun rx.cell p.toNat codes } := by
  simp [Rx.cellWrite, hu, hd, hp, hk]

/-- Any other cell write is undefined (R114, R122). -/
theorem Rx.cellWrite_outside {rx : Rx} {p : Nibble} {codes : List Byte}
    (h : ∀ d, rx.digits = some d → d ≤ p.toNat ∨ d < p.toNat + codes.length) : rx.cellWrite p codes = rx.undefined := by
  cases hu : rx.undef
  · cases hd : rx.digits with
    | none => simp [Rx.cellWrite, hu, hd]
    | some d =>
      have := h d hd
      simp only [Rx.cellWrite, Rx.whileDefined_of_defined hu, hd]
      rw [if_neg (by omega)]
  · exact Rx.whileDefined_of_undef hu _

/-! ### Glyph slots (R115) -/

/-- Byte `j` of an uploaded slot is the byte sent, and unknown where none was. -/
theorem glyphSlot_get (bitmap : List Byte) (j : Nat) (h : j < 5) : (glyphSlot bitmap)[j]? = some bitmap[j]? := by
  unfold glyphSlot
  rcases j with _ | _ | _ | _ | _ | j <;> first | rfl | omega

/-! ### Whole frames -/

theorem Rx.receive_of_ok {bytes : List Byte} {i : Instr} (h : decodeFrame bytes = .ok i) (rx : Rx) :
    rx.receive bytes = rx.apply i := by
  simp [Rx.receive, h]

theorem Rx.receive_of_error {bytes : List Byte} {e : FrameError} (h : decodeFrame bytes = .error e) (rx : Rx) :
    rx.receive bytes = rx.undefined := by
  simp [Rx.receive, h]

@[simp] theorem Rx.receiveFrom_false (frame : List Byte) (rx : Rx) : rx.receiveFrom false frame = rx.receive frame := rfl
@[simp] theorem Rx.receiveFrom_true (frame : List Byte) (rx : Rx) : rx.receiveFrom true frame = rx.undefined := rfl

theorem Rx.receive_setDigits (n : Byte) (rx : Rx) : rx.receive [opSetDigits, n] = rx.setDigits n :=
  Rx.receive_of_ok (decode_setDigits n) rx

theorem Rx.receive_brightness (v : Byte) (rx : Rx) : rx.receive [opBrightness, v] = rx.setBrightness v :=
  Rx.receive_of_ok (decode_setBrightnessCmd v) rx

theorem Rx.receive_normal (rx : Rx) : rx.receive [opNormal] = rx.normal := Rx.receive_of_ok decode_normal rx

theorem Rx.receive_lampTest (rx : Rx) : rx.receive [opLampTest] = rx.lampTest := Rx.receive_of_ok decode_lampTest rx

theorem Rx.receive_cell (p : Nibble) (codes : List Byte) (rx : Rx) :
    rx.receive ((0x2#4 ++ p) :: codes) = rx.cellWrite p codes :=
  Rx.receive_of_ok (decode_cellWrite p codes) rx

theorem Rx.receive_glyph (i : Nibble) (bitmap : List Byte) (h : bitmap.length ≤ 5) (rx : Rx) :
    rx.receive ((0x4#4 ++ i) :: bitmap) = rx.glyphWrite i bitmap :=
  Rx.receive_of_ok (decode_glyphWrite i bitmap h) rx

end Sys2Proof.Machine
end

