-- ==== Sys2Proof/Laws/Rows.lean ====
section
/-! SUPPORT. Each row that makes a capability call: the state it gives when the call succeeds, the fault it takes when it
fails, and nothing else (R74, R89, R93, R130). -/

namespace Sys2Proof.Machine

theorem cfgRow_cases {s : State} (hf : s.fault = none) :
    cfgRow s = { s.takeResult with ctl := .cOpen, pinsCfg := true, trace := s.trace ++ [.cfgPins] } ∨
    cfgRow s = s.takeResult.raise .fatalPinConfig := by
  rcases s.cfgPins_cases with e | e <;> rw [cfgRow, e]
  · left
    rw [State.andThen_of_none (by simpa using hf)]
    simp [State.emit, Rx.onEvent, captureEvent]
  · exact .inr (State.andThen_of_some rfl _)

theorem openRow_cases {s : State} (hf : s.fault = none) :
    openRow s = { s.takeResult with ctl := .cEn, busOpen := true, trace := s.trace ++ [.busOpen s.cfg.clockHz] } ∨
    openRow s = s.takeResult.raise .fatalBusOpen := by
  rcases s.openBus_cases with e | e <;> rw [openRow, e]
  · left
    rw [State.andThen_of_none (by simpa using hf)]
    simp [State.emit, Rx.onEvent, captureEvent]
  · exact .inr (State.andThen_of_some rfl _)

theorem enRow_cases {s : State} (hf : s.fault = none) :
    enRow s = { s.takeResult with ctl := .cReset, lvlEn := .driven .high, trace := s.trace ++ [.pin .en .high] } ∨
    enRow s = ({ s.takeResult with lvlEn := .unknown }).raise .pinSetError := by
  rcases s.setPin_cases .en .high with e | e <;> rw [enRow, e]
  · left
    rw [State.andThen_of_none (by simpa using hf)]
    simp [State.emit, State.setLevel, Rx.onEvent, captureEvent]
  · exact .inr (State.andThen_of_some rfl _)

theorem rsAssertRow_cases {s : State} (hf : s.fault = none) :
    rsAssertRow s = { s.takeResult with
      rs := .rsHold, lvlRst := .driven .low, trace := s.trace ++ [.pin .rst .low], rx := s.rx.forget } ∨
    rsAssertRow s = ({ s.takeResult with lvlRst := .unknown }).raise .pinSetError := by
  rcases s.setPin_cases .rst .low with e | e <;> rw [rsAssertRow, e]
  · left
    rw [State.andThen_of_none (by simpa using hf)]
    simp [State.emit, State.setLevel, Rx.onEvent, captureEvent]
  · exact .inr (State.andThen_of_some rfl _)

theorem rsReleaseRow_cases {s : State} (hf : s.fault = none) :
    rsReleaseRow s = { s.takeResult with
      rs := .rsIdle, lvlRst := .driven .high, trace := s.trace ++ [.pin .rst .high] } ∨
    rsReleaseRow s = ({ s.takeResult with lvlRst := .unknown }).raise .pinSetError := by
  rcases s.setPin_cases .rst .high with e | e <;> rw [rsReleaseRow, e]
  · left
    rw [State.andThen_of_none (by simpa using hf)]
    simp [State.emit, State.setLevel, Rx.onEvent, captureEvent]
  · exact .inr (State.andThen_of_some rfl _)

theorem encAssert_cases {s : State} (hf : s.fault = none) :
    encAssert s = { s.takeResult with
      lvlCs := .driven .low, enc := .eOpcode, trace := s.trace ++ [.pin .cs .low], rxFrame := some [] } ∨
    encAssert s = ({ s.takeResult with lvlCs := .unknown }).raise .pinSetError := by
  rcases s.setPin_cases .cs .low with e | e <;> rw [encAssert, e]
  · left
    rw [State.andThen_of_none (by simpa using hf)]
    simp [State.emit, State.setLevel, Rx.onEvent, captureEvent]
  · exact .inr (State.andThen_of_some rfl _)

/-- A successful `Tx(b)`: its event, and the byte in the observer's frame. -/
def sent (b : Byte) (s : State) : State :=
  { s.takeResult with trace := s.trace ++ [.tx b], rxFrame := s.rxFrame.map fun bytes => bytes ++ [b] }

/-- A `Tx(b)` followed by what the row writes: both happen, or TxError is raised and neither does. -/
theorem tx_andThen_cases (b : Byte) {s : State} (hf : s.fault = none) (f : State → State) :
    (s.busOpen = true ∧ (s.tx b).andThen f = f (sent b s)) ∨
    (s.busOpen = true ∧ (s.tx b).andThen f = s.takeResult.raise .txError) ∨
    (s.busOpen = false ∧ (s.tx b).andThen f = s.raise .txError) := by
  by_cases ho : s.busOpen = true
  case neg =>
    refine .inr (.inr ⟨by simpa using ho, ?_⟩)
    rw [State.tx, if_neg ho]
    exact State.andThen_of_some rfl _
  case pos =>
    simp only [State.tx, if_pos ho]
    rcases s.attempt_cases (fun t => t.emit (.tx b)) (fun t => t.raise .txError) with e | e <;> rw [e]
    · left
      refine ⟨ho, ?_⟩
      rw [State.andThen_of_none (by simpa using hf)]
      simp [sent, State.emit, Rx.onEvent, captureEvent]
    · exact .inr (.inl ⟨ho, State.andThen_of_some rfl _⟩)

theorem afterOpcode_f0 {s : State} (h : s.encShape = .f0) : afterOpcode s = { s with enc := .eRelease } := by
  simp [afterOpcode, h]

theorem afterOpcode_payload {s : State} (h : s.encShape ≠ .f0) :
    afterOpcode s = { s with enc := .ePayload, encIdx := 0 } := by
  unfold afterOpcode
  split <;> simp_all

theorem encRelease_cases {s : State} (hf : s.fault = none) :
    encRelease s = { s.takeResult with
      lvlCs := .driven .high, enc := .eIdle, trace := s.trace ++ [.pin .cs .high],
      rx := match s.rxFrame with
        | some bytes => s.rx.receiveFrom s.misaddressed bytes
        | none => s.rx
      rxFrame := none } ∨
    encRelease s = ({ s.takeResult with lvlCs := .unknown }).raise .pinSetError := by
  rcases s.setPin_cases .cs .high with e | e <;> rw [encRelease, releaseCs, e]
  · left
    rw [State.andThen_of_none (f := fun t => { t with enc := .eIdle }) (by simpa using hf),
      State.andThen_of_none (by simpa using hf)]
    cases hx : s.rxFrame with
    | none =>
      rw [State.deliver_of_none (by simpa [captureEvent] using hx)]
      simp [State.emit, State.setLevel, Rx.onEvent, captureEvent, hx]
    | some bytes =>
      rw [State.deliver_of_some (bytes := bytes) (by simpa [captureEvent] using hx)]
      simp [State.emit, State.setLevel, Rx.onEvent, State.misaddressed]
  · right
    rw [State.andThen_of_some (f := fun t => { t with enc := .eIdle }) rfl, State.andThen_of_some rfl]
    rfl

end Sys2Proof.Machine
end

