-- ==== Sys2Proof/Laws/Steps.lean ====
section
/-! SUPPORT. What a step can do, said once: the rows of the spec's tables with their conditions, and how `exec` of a wire
command and of a request unfolds. -/

namespace Sys2Proof.Machine

/-! ### `exec` by level -/

/-- A wire command acts on the observer alone (R36). -/
theorem exec_wire {i : Instr} (h : i.isWire = true) (s : State) : exec i s = .next { s with rx := s.rx.apply i } := by
  cases i <;> first | rfl | simp [Instr.isWire] at h

/-- A display operation is a request with its parts. -/
theorem exec_display {r : Request} (h : r.isDisplay = true) (s : State) :
    ∃ parts, exec r.toInstr s = displayOp r parts s := by
  cases r <;> first | exact ⟨_, rfl⟩ | simp [Request.isDisplay] at h

/-- Every host operation of R19 is a request. -/
theorem exec_request (r : Request) (s : State) : ∃ taken, exec r.toInstr s = request r taken s := by
  by_cases h : r.isDisplay = true
  · obtain ⟨parts, e⟩ := exec_display h s
    exact ⟨_, e⟩
  · cases r <;> first | exact ⟨_, rfl⟩ | simp [Request.isDisplay] at h

/-! ### The end of a frame -/

/-- Receiving a frame by decoding and running it is delivering its bytes to the observer (R113). -/
theorem runReceivedFrame_eq (s : State) : runReceivedFrame s = .next s.deliver := by
  unfold runReceivedFrame
  cases hx : s.rxFrame with
  | none => rw [State.deliver_of_none hx]
  | some bytes =>
    rw [State.deliver_of_some hx]
    cases hm : s.misaddressed with
    | true => simp
    | false =>
    cases hd : decodeFrame bytes with
    | ok i => simp [hd, exec_wire (decodeFrame_isWire hd), Rx.receive_of_ok hd]
    | error e => simp [hd, Rx.receive_of_error hd]

theorem releaseStep_eq (s : State) : releaseStep s = .next (encRelease s) := by
  unfold releaseStep encRelease
  cases h : (releaseCs s).fault with
  | none => simp [runReceivedFrame_eq, State.andThen_of_none h]
  | some r => simp [State.andThen_of_some h]

/-! ### Rows -/

/-- The rows a step can take from `s`, with the state each gives: the controller's (R89, R109), the Reset Sequencer's (R93)
and the encoder's (R74). -/
inductive Row (s : State) : State → Prop where
  | wait : s.ctl = .cIdle → s.started = false → s.calls = [] → s.enc = .eIdle → s.rs = .rsIdle → Row s s
  | accept (r : Request) (rest : List Request) : s.ctl = .cIdle → s.started = false → s.calls = r :: rest →
      r.wf = true → s.enc = .eIdle → s.rs = .rsIdle → Row s (Machine.accept r { s with calls := rest })
  | cfg : s.ctl = .cCfg → s.started = false → s.enc = .eIdle → s.rs = .rsIdle → Row s (cfgRow s)
  | openBus : s.ctl = .cOpen → s.started = false → s.enc = .eIdle → s.rs = .rsIdle → Row s (openRow s)
  | en : s.ctl = .cEn → s.started = false → s.enc = .eIdle → s.rs = .rsIdle → Row s (enRow s)
  | startReset : s.ctl = .cReset → s.started = false → s.enc = .eIdle → s.rs = .rsIdle → Row s (Machine.startReset s)
  | resetDone : s.ctl = .cReset → s.started = true → s.enc = .eIdle → s.rs = .rsIdle → Row s (Machine.resetDone s)
  | startDigits : s.ctl = .cDigits → s.started = false → s.enc = .eIdle → s.rs = .rsIdle →
      Row s (startEncoder (initSetDigitsCommand s.cfg) s)
  | digitsDone : s.ctl = .cDigits → s.started = true → s.enc = .eIdle → s.rs = .rsIdle → Row s (Machine.digitsDone s)
  | startBright : s.ctl = .cBright → s.started = false → s.enc = .eIdle → s.rs = .rsIdle →
      Row s (startEncoder initBrightnessCommand s)
  | brightDone : s.ctl = .cBright → s.started = true → s.enc = .eIdle → s.rs = .rsIdle → Row s (Machine.brightDone s)
  | startFirst (r : Request) (c : Command) : s.ctl = .cFrame → s.started = false → s.req = some r →
      Request.firstCommand s.cfg r = some c → s.enc = .eIdle → s.rs = .rsIdle → Row s (startEncoder c s)
  | testLampDone (ms : Nat) : s.ctl = .cFrame → s.started = true → s.req = some (.fullTest ms) → s.enc = .eIdle →
      s.rs = .rsIdle → Row s (firstFrameDone s)
  | frameDone (r : Request) : s.ctl = .cFrame → s.started = true → s.req = some r → r.isDisplay = true →
      (∀ ms, r ≠ .fullTest ms) → s.enc = .eIdle → s.rs = .rsIdle → Row s (opDone s)
  | testWait (ms : Nat) : s.ctl = .cWait → s.started = false → s.req = some (.fullTest ms) → s.enc = .eIdle →
      s.rs = .rsIdle → Row s (waitRow ms s)
  | startSecond : s.ctl = .cFrame2 → s.started = false → s.enc = .eIdle → s.rs = .rsIdle →
      Row s (startEncoder normalCommand s)
  | testDone : s.ctl = .cFrame2 → s.started = true → s.enc = .eIdle → s.rs = .rsIdle → Row s (opDone s)
  | rsPre : s.rs = .rsPre → s.enc = .eIdle → Row s (rsPreRow s)
  | rsAssert : s.rs = .rsAssert → s.enc = .eIdle → Row s (rsAssertRow s)
  | rsHold : s.rs = .rsHold → s.enc = .eIdle → Row s (rsHoldRow s)
  | rsRelease : s.rs = .rsRelease → s.enc = .eIdle → Row s (rsReleaseRow s)
  | encAssert : s.enc = .eAssert → s.rs = .rsIdle → Row s (Machine.encAssert s)
  | encOpcode : s.enc = .eOpcode → s.rs = .rsIdle → Row s (Machine.encOpcode s)
  | encSingle (b : Byte) (p : List Byte) : s.enc = .ePayload → s.encShape = .f1 → s.encBuf = b :: p → s.rs = .rsIdle →
      Row s (Machine.encSingle b s)
  | encNext (b : Byte) : s.enc = .ePayload → s.encShape = .fn → s.encBuf[s.encIdx]? = some b → b ≠ terminator →
      s.rs = .rsIdle → Row s (Machine.encNext b s)
  | encStop : s.enc = .ePayload → s.encShape = .fn →
      s.encBuf[s.encIdx]? = none ∨ s.encBuf[s.encIdx]? = some terminator → s.rs = .rsIdle → Row s (Machine.encStop s)
  | encRelease : s.enc = .eRelease → s.rs = .rsIdle → Row s (Machine.encRelease s)

/-- A step that gives a next state takes a row, and no fault was set. -/
theorem step_row {s t : State} (h : step s = .next t) : s.fault = none ∧ Row s t := by
  unfold step blockStep at h
  cases hf : s.fault with
  | some r => simp [hf] at h
  | none =>
    refine ⟨rfl, ?_⟩
    simp only [hf] at h
    unfold sequencerStep at h
    split at h
    case h_1 he hr =>
      unfold controllerStep at h
      split at h
      case h_1 hc hs =>
        unfold fetchRequest at h
        split at h
        · next r rest hq =>
          rcases request_cases r (accept r) { s with calls := rest } with ⟨f, _, e⟩ | ⟨_, _, e⟩ | ⟨_, _, _, e⟩ | ⟨_, _, hw, e⟩ <;>
            rw [e] at h <;> cases h
          exact .accept r rest hc hs hq hw he hr
        · next hq => cases h; exact .wait hc hs hq he hr
      case h_11 hc hs =>
        unfold startFirstFrame at h
        split at h
        · next r hq =>
          split at h
          · next c hk => cases h; exact .startFirst r c hc hs hq hk he hr
          · cases h
        · cases h
      case h_12 hc hs =>
        unfold endFirstFrame at h
        split at h <;> cases h
        · next ms hq => exact .testLampDone ms hc hs hq he hr
        all_goals
          next hq => exact .frameDone _ hc hs hq rfl (by intro ms h; cases h) he hr
      case h_13 hc hs =>
        unfold waitStep at h
        split at h <;> cases h
        next ms hq => exact .testWait ms hc hs hq he hr
      all_goals cases h
      all_goals
        next hc hs =>
        first
        | exact .cfg hc hs he hr
        | exact .openBus hc hs he hr
        | exact .en hc hs he hr
        | exact .startReset hc hs he hr
        | exact .resetDone hc hs he hr
        | exact .startDigits hc hs he hr
        | exact .digitsDone hc hs he hr
        | exact .startBright hc hs he hr
        | exact .brightDone hc hs he hr
        | exact .startSecond hc hs he hr
        | exact .testDone hc hs he hr
    case h_2 he hn =>
      unfold resetStep at h
      split at h <;> cases h
      · next hr => exact .rsPre hr he
      · next hr => exact .rsAssert hr he
      · next hr => exact .rsHold hr he
      · next hr => exact .rsRelease hr he
    case h_3 hr hn =>
      unfold encoderStep at h
      split at h
      · cases h
      · next he => cases h; exact .encAssert he hr
      · next he => cases h; exact .encOpcode he hr
      · next he =>
        unfold payloadStep at h
        split at h
        · next b p hs hb => cases h; exact .encSingle b p he hs hb hr
        · next b hs hb =>
          split at h <;> cases h
          · next hz => exact .encStop he hs (.inr (by rw [hb, hz])) hr
          · next hz => exact .encNext b he hs hb hz hr
        · next hs hb => cases h; exact .encStop he hs (.inl hb) hr
        · cases h
      · next he => rw [releaseStep_eq] at h; cases h; exact .encRelease he hr
    case h_4 => cases h

/-! ### What a step gives -/

/-- Everything a step can give from a state without a fault, each row with the conditions under which it is taken and the
state written out; a capability call that fails gives the fault instead (R130). -/
inductive Effect (s : State) : State → Prop where
  | wait : s.ctl = .cIdle → s.started = false → s.calls = [] → s.enc = .eIdle → s.rs = .rsIdle → Effect s s
  | initDestroyed (rest : List Request) : s.ctl = .cIdle → s.started = false → s.calls = .init :: rest →
      s.enc = .eIdle → s.rs = .rsIdle → s.dev = .destroyed →
      Effect s (({ s with calls := rest, req := some .init }).raise .useAfterTeardown)
  | initReady (rest : List Request) : s.ctl = .cIdle → s.started = false → s.calls = .init :: rest →
      s.enc = .eIdle → s.rs = .rsIdle → s.dev = .ready → Effect s { s with calls := rest }
  | initAccepted (rest : List Request) : s.ctl = .cIdle → s.started = false → s.calls = .init :: rest →
      s.enc = .eIdle → s.rs = .rsIdle → s.dev = .uninitialized →
      Effect s { s with calls := rest, req := some .init, ctl := .cCfg }
  | teardownOpen (rest : List Request) : s.ctl = .cIdle → s.started = false → s.calls = .teardown :: rest →
      s.enc = .eIdle → s.rs = .rsIdle → s.busOpen = true →
      Effect s { s with calls := rest, dev := .destroyed, busOpen := false, trace := s.trace ++ [.busClose] }
  | teardownClosed (rest : List Request) : s.ctl = .cIdle → s.started = false → s.calls = .teardown :: rest →
      s.enc = .eIdle → s.rs = .rsIdle → s.busOpen = false → Effect s { s with calls := rest, dev := .destroyed }
  | displayDestroyed (r : Request) (rest : List Request) : s.ctl = .cIdle → s.started = false → s.calls = r :: rest →
      r.wf = true → r.isDisplay = true → s.enc = .eIdle → s.rs = .rsIdle → s.dev = .destroyed →
      Effect s (({ s with calls := rest, req := some r }).raise .useAfterTeardown)
  | displayNotReady (r : Request) (rest : List Request) : s.ctl = .cIdle → s.started = false → s.calls = r :: rest →
      r.wf = true → r.isDisplay = true → s.enc = .eIdle → s.rs = .rsIdle → s.dev = .uninitialized →
      Effect s (({ s with calls := rest, req := some r }).raise .notReady)
  | displayAccepted (r : Request) (rest : List Request) : s.ctl = .cIdle → s.started = false → s.calls = r :: rest →
      r.wf = true → r.isDisplay = true → s.enc = .eIdle → s.rs = .rsIdle → s.dev = .ready →
      Effect s { s with calls := rest, req := some r, ctl := .cFrame }
  | cfg : s.ctl = .cCfg → s.started = false → s.enc = .eIdle → s.rs = .rsIdle →
      Effect s { s.takeResult with ctl := .cOpen, pinsCfg := true, trace := s.trace ++ [.cfgPins] }
  | cfgFails : s.ctl = .cCfg → s.started = false → s.enc = .eIdle → s.rs = .rsIdle →
      Effect s (s.takeResult.raise .fatalPinConfig)
  | openBus : s.ctl = .cOpen → s.started = false → s.enc = .eIdle → s.rs = .rsIdle →
      Effect s { s.takeResult with ctl := .cEn, busOpen := true, trace := s.trace ++ [.busOpen s.cfg.clockHz] }
  | openFails : s.ctl = .cOpen → s.started = false → s.enc = .eIdle → s.rs = .rsIdle →
      Effect s (s.takeResult.raise .fatalBusOpen)
  | en : s.ctl = .cEn → s.started = false → s.enc = .eIdle → s.rs = .rsIdle →
      Effect s { s.takeResult with ctl := .cReset, lvlEn := .driven .high, trace := s.trace ++ [.pin .en .high] }
  | enFails : s.ctl = .cEn → s.started = false → s.enc = .eIdle → s.rs = .rsIdle →
      Effect s (({ s.takeResult with lvlEn := .unknown }).raise .pinSetError)
  | startReset : s.ctl = .cReset → s.started = false → s.enc = .eIdle → s.rs = .rsIdle →
      Effect s { s with rs := .rsPre, started := true }
  | resetDone : s.ctl = .cReset → s.started = true → s.enc = .eIdle → s.rs = .rsIdle →
      Effect s { s with ctl := .cDigits, started := false }
  | digitsDone : s.ctl = .cDigits → s.started = true → s.enc = .eIdle → s.rs = .rsIdle →
      Effect s { s with ctl := .cBright, started := false }
  | brightDone : s.ctl = .cBright → s.started = true → s.enc = .eIdle → s.rs = .rsIdle →
      Effect s { s with dev := .ready, ctl := .cIdle, started := false, req := none }
  | startEncoder (c : Command) : s.expectedCommand = some c → s.started = false → s.enc = .eIdle → s.rs = .rsIdle →
      Effect s { s with
        encShape := c.shape, encOp := c.op, encBuf := c.payload, enc := .eAssert, started := true }
  | testLampDone (ms : Nat) : s.ctl = .cFrame → s.started = true → s.req = some (.fullTest ms) → s.enc = .eIdle →
      s.rs = .rsIdle → Effect s { s with ctl := .cWait, started := false }
  | frameDone (r : Request) : s.ctl = .cFrame → s.started = true → s.req = some r → r.isDisplay = true →
      (∀ ms, r ≠ .fullTest ms) → s.enc = .eIdle → s.rs = .rsIdle →
      Effect s { s with ctl := .cIdle, started := false, req := none }
  | testWait (ms : Nat) : s.ctl = .cWait → s.started = false → s.req = some (.fullTest ms) → s.enc = .eIdle →
      s.rs = .rsIdle → Effect s { s with ctl := .cFrame2, trace := s.trace ++ [.sleep ms] }
  | testDone : s.ctl = .cFrame2 → s.started = true → s.enc = .eIdle → s.rs = .rsIdle →
      Effect s { s with ctl := .cIdle, started := false, req := none }
  | rsPre : s.rs = .rsPre → s.enc = .eIdle → Effect s { s with rs := .rsAssert, trace := s.trace ++ [.sleep 2] }
  | rsAssert : s.rs = .rsAssert → s.enc = .eIdle →
      Effect s { s.takeResult with
        rs := .rsHold, lvlRst := .driven .low, trace := s.trace ++ [.pin .rst .low], rx := s.rx.forget }
  | rsAssertFails : s.rs = .rsAssert → s.enc = .eIdle →
      Effect s (({ s.takeResult with lvlRst := .unknown }).raise .pinSetError)
  | rsHold : s.rs = .rsHold → s.enc = .eIdle → Effect s { s with rs := .rsRelease, trace := s.trace ++ [.sleep 2] }
  | rsRelease : s.rs = .rsRelease → s.enc = .eIdle →
      Effect s { s.takeResult with rs := .rsIdle, lvlRst := .driven .high, trace := s.trace ++ [.pin .rst .high] }
  | rsReleaseFails : s.rs = .rsRelease → s.enc = .eIdle →
      Effect s (({ s.takeResult with lvlRst := .unknown }).raise .pinSetError)
  | encAssert : s.enc = .eAssert → s.rs = .rsIdle →
      Effect s { s.takeResult with
        lvlCs := .driven .low, enc := .eOpcode, trace := s.trace ++ [.pin .cs .low], rxFrame := some [] }
  | encAssertFails : s.enc = .eAssert → s.rs = .rsIdle →
      Effect s (({ s.takeResult with lvlCs := .unknown }).raise .pinSetError)
  | encOpcodeAlone : s.enc = .eOpcode → s.rs = .rsIdle → s.busOpen = true → s.encShape = .f0 →
      Effect s { sent s.encOp s with enc := .eRelease }
  | encOpcode : s.enc = .eOpcode → s.rs = .rsIdle → s.busOpen = true → s.encShape ≠ .f0 →
      Effect s { sent s.encOp s with enc := .ePayload, encIdx := 0 }
  | encSingle (b : Byte) (p : List Byte) : s.enc = .ePayload → s.encShape = .f1 → s.encBuf = b :: p →
      s.rs = .rsIdle → s.busOpen = true → Effect s { sent b s with encIdx := 1, enc := .eRelease }
  | encNext (b : Byte) : s.enc = .ePayload → s.encShape = .fn → s.encBuf[s.encIdx]? = some b → b ≠ terminator →
      s.rs = .rsIdle → s.busOpen = true → Effect s { sent b s with encIdx := s.encIdx + 1 }
  | encStop : s.enc = .ePayload → s.encShape = .fn →
      s.encBuf[s.encIdx]? = none ∨ s.encBuf[s.encIdx]? = some terminator → s.rs = .rsIdle →
      Effect s { s with enc := .eRelease }
  | txFails : s.enc = .eOpcode ∨ s.enc = .ePayload → s.rs = .rsIdle → s.busOpen = true →
      Effect s (s.takeResult.raise .txError)
  | txClosed : s.enc = .eOpcode ∨ s.enc = .ePayload → s.rs = .rsIdle → s.busOpen = false →
      Effect s (s.raise .txError)
  | encRelease : s.enc = .eRelease → s.rs = .rsIdle →
      Effect s { s.takeResult with
        lvlCs := .driven .high, enc := .eIdle, trace := s.trace ++ [.pin .cs .high],
        rx := match s.rxFrame with
          | some bytes => s.rx.receiveFrom s.misaddressed bytes
          | none => s.rx
        rxFrame := none }
  | encReleaseFails : s.enc = .eRelease → s.rs = .rsIdle →
      Effect s (({ s.takeResult with lvlCs := .unknown }).raise .pinSetError)

theorem Dev.cases (d : Dev) : d = .destroyed ∨ d = .uninitialized ∨ d = .ready := by cases d <;> simp

/-- Accepting a request gives one of the effects of `C_IDLE`. -/
theorem accept_effect {s : State} {r : Request} {rest : List Request} (hc : s.ctl = .cIdle) (hs : s.started = false)
    (hq : s.calls = r :: rest) (hw : r.wf = true) (he : s.enc = .eIdle) (hr : s.rs = .rsIdle) :
    Effect s (accept r { s with calls := rest }) := by
  by_cases h : r.isDisplay = true
  · have e : accept r { s with calls := rest } = acceptDisplay r { s with calls := rest } := by
      cases r <;> first | rfl | simp [Request.isDisplay] at h
    rw [e]
    rcases s.dev.cases with hd | hd | hd
    · rw [acceptDisplay_of_destroyed (by exact hd)]
      exact .displayDestroyed r rest hc hs hq hw h he hr hd
    · rw [acceptDisplay_of_uninitialized (by exact hd)]
      exact .displayNotReady r rest hc hs hq hw h he hr hd
    · rw [acceptDisplay_of_ready (by exact hd)]
      exact .displayAccepted r rest hc hs hq hw h he hr hd
  · cases r <;> simp [Request.isDisplay] at h
    · rcases s.dev.cases with hd | hd | hd
      · have e : accept .init { s with calls := rest } =
            ({ s with calls := rest, req := some .init }).raise .useAfterTeardown := by simp [accept, acceptInit, latch, hd]
        exact e ▸ .initDestroyed rest hc hs hq he hr hd
      · have e : accept .init { s with calls := rest } = { s with calls := rest, req := some .init, ctl := .cCfg } := by
          simp [accept, acceptInit, latch, hd]
        exact e ▸ .initAccepted rest hc hs hq he hr hd
      · have e : accept .init { s with calls := rest } = { s with calls := rest } := by simp [accept, acceptInit, hd]
        rw [e]
        exact .initReady rest hc hs hq he hr hd
    · rcases Bool.eq_false_or_eq_true s.busOpen with ho | ho
      · have e : accept .teardown { s with calls := rest } = { s with
            calls := rest, dev := .destroyed, busOpen := false, trace := s.trace ++ [.busClose] } := by
          simp [accept, acceptTeardown, State.closeBus, State.emit, Rx.onEvent, captureEvent, ho]
        exact e ▸ .teardownOpen rest hc hs hq he hr ho
      · have e : accept .teardown { s with calls := rest } = { s with calls := rest, dev := .destroyed } := by
          simp [accept, acceptTeardown, State.closeBus, ho]
        exact e ▸ .teardownClosed rest hc hs hq he hr ho

/-- A `Tx` row of the encoder gives its own effect or the fault. -/
theorem tx_effect {s : State} (hf : s.fault = none) (he : s.enc = .eOpcode ∨ s.enc = .ePayload) (hr : s.rs = .rsIdle)
    (b : Byte) (f : State → State) (h : s.busOpen = true → Effect s (f (sent b s))) : Effect s ((s.tx b).andThen f) := by
  rcases tx_andThen_cases b hf f with ⟨ho, e⟩ | ⟨ho, e⟩ | ⟨ho, e⟩ <;> rw [e]
  · exact h ho
  · exact .txFails he hr ho
  · exact .txClosed he hr ho

/-- A row gives one of the effects. -/
theorem row_effect {s t : State} (hf : s.fault = none) (h : Row s t) : Effect s t := by
  cases h with
  | wait hc hs hq he hr => exact .wait hc hs hq he hr
  | accept r rest hc hs hq hw he hr => exact accept_effect hc hs hq hw he hr
  | cfg hc hs he hr =>
    rcases cfgRow_cases hf with e | e <;> rw [e]
    · exact .cfg hc hs he hr
    · exact .cfgFails hc hs he hr
  | openBus hc hs he hr =>
    rcases openRow_cases hf with e | e <;> rw [e]
    · exact .openBus hc hs he hr
    · exact .openFails hc hs he hr
  | en hc hs he hr =>
    rcases enRow_cases hf with e | e <;> rw [e]
    · exact .en hc hs he hr
    · exact .enFails hc hs he hr
  | startReset hc hs he hr => exact .startReset hc hs he hr
  | resetDone hc hs he hr => exact .resetDone hc hs he hr
  | startDigits hc hs he hr => exact .startEncoder _ (by simp [State.expectedCommand, hc]) hs he hr
  | digitsDone hc hs he hr => exact .digitsDone hc hs he hr
  | startBright hc hs he hr => exact .startEncoder _ (by simp [State.expectedCommand, hc]) hs he hr
  | brightDone hc hs he hr => exact .brightDone hc hs he hr
  | startFirst r c hc hs hq hk he hr => exact .startEncoder c (by simp [State.expectedCommand, hc, hq, hk]) hs he hr
  | testLampDone ms hc hs hq he hr => exact .testLampDone ms hc hs hq he hr
  | frameDone r hc hs hq hd hn he hr => exact .frameDone r hc hs hq hd hn he hr
  | testWait ms hc hs hq he hr => exact .testWait ms hc hs hq he hr
  | startSecond hc hs he hr => exact .startEncoder _ (by simp [State.expectedCommand, hc]) hs he hr
  | testDone hc hs he hr => exact .testDone hc hs he hr
  | rsPre hr he => exact .rsPre hr he
  | rsAssert hr he =>
    rcases rsAssertRow_cases hf with e | e <;> rw [e]
    · exact .rsAssert hr he
    · exact .rsAssertFails hr he
  | rsHold hr he => exact .rsHold hr he
  | rsRelease hr he =>
    rcases rsReleaseRow_cases hf with e | e <;> rw [e]
    · exact .rsRelease hr he
    · exact .rsReleaseFails hr he
  | encAssert he hr =>
    rcases encAssert_cases hf with e | e <;> rw [e]
    · exact .encAssert he hr
    · exact .encAssertFails he hr
  | encOpcode he hr =>
    refine tx_effect hf (.inl he) hr s.encOp afterOpcode fun ho => ?_
    by_cases hs : s.encShape = .f0
    · rw [afterOpcode_f0 (s := sent s.encOp s) (by simpa [sent] using hs)]
      exact .encOpcodeAlone he hr ho hs
    · rw [afterOpcode_payload (s := sent s.encOp s) (by simpa [sent] using hs)]
      exact .encOpcode he hr ho hs
  | encSingle b p he hs hb hr =>
    exact tx_effect hf (.inr he) hr b _ fun ho => .encSingle b p he hs hb hr ho
  | encNext b he hs hb hz hr =>
    exact tx_effect hf (.inr he) hr b _ fun ho => by
      have e : (sent b s).encIdx = s.encIdx := by simp [sent]
      simpa only [e] using .encNext b he hs hb hz hr ho
  | encStop he hs hb hr => exact .encStop he hs hb hr
  | encRelease he hr =>
    rcases encRelease_cases hf with e | e <;> rw [e]
    · exact .encRelease he hr
    · exact .encReleaseFails he hr

/-- Everything a step that gives a next state can do. -/
theorem step_effect {s t : State} (h : step s = .next t) : s.fault = none ∧ Effect s t :=
  ⟨(step_row h).1, row_effect (step_row h).1 (step_row h).2⟩

end Sys2Proof.Machine
end

