-- ==== Sys2Proof/Tests/Slice0.lean ====
section
/-! SUPPORT. Tests of the model: ill-formed terms, frames written out from `30_encoding.md`, the worked examples and vectors of
`95_test_vectors.md` (their numbers stand in the comments), and for each obligation a state and operands that meet its
hypotheses. -/

namespace Sys2Proof.Tests

open Sys2Proof.Machine

/-! ### Helpers -/

/-- The next state of an outcome. -/
def after : Host.Outcome State Fault Refusal → Option State
  | .next t => some t
  | .fault _ => none
  | .refused _ => none

/-- The refusal of an outcome. -/
def refusal : Host.Outcome State Fault Refusal → Option Refusal
  | .next _ => none
  | .fault _ => none
  | .refused r => some r

/-- The events a call adds, from a state whose trace is empty. -/
def events (o : Host.Outcome State Fault Refusal) : Option (List Event) := (after o).map fun t => t.trace

/-- The observer after a call. -/
def observer (o : Host.Outcome State Fault Refusal) (f : Rx → Option Byte) : Option Byte := (after o).bind fun t => f t.rx

/-- The fault a call records. -/
def faultOf (o : Host.Outcome State Fault Refusal) : Option FaultRecord := (after o).bind fun t => t.fault

/-- `[CS↓ HH ... CS↑]` (R19). -/
def onBus (bytes : List Byte) : List Event := Event.pin .cs .low :: (bytes.map Event.tx ++ [Event.pin .cs .high])

/-- `n` calls that succeed. -/
def good (n : Nat) : List Bool := List.replicate n true

/-- The block at construction, with `n` successes placed. -/
def fresh (n : Nat) : State := { State.reset with results := good n }

/-- `READY(8)` with its trace left out, and `n` successes placed. -/
def ready (n : Nat) : State :=
  { State.reset with
    dev := .ready, pinsCfg := true, busOpen := true
    lvlCs := .driven .high, lvlRst := .driven .high, lvlEn := .driven .high
    rx := { Rx.initial with digits := some 8, bright := some 0xFF#8 }, results := good n }

/-- The block after teardown. -/
def gone : State := { State.reset with dev := .destroyed }

/-- A halted block. -/
def halted : State :=
  { State.reset with ctl := .cHalt, fault := some ⟨.fatalPinConfig, some .init, .controller .cCfg⟩, req := some .init }

/-- The block in `init()` at step `c`, with `n` successes placed. -/
def atInit (c : Ctl) (n : Nat) : State :=
  { State.reset with ctl := c, pinsCfg := true, busOpen := true, req := some .init, results := good n }

/-- The block inside the frame of `write_string(0, [0x31, 0x00, 0x32])`, about to reach the zero byte. -/
def sending : State :=
  { ready 4 with
    lvlCs := .driven .low, ctl := .cFrame, started := true, enc := .ePayload
    req := some (.writeString 0 [0x31, 0x00, 0x32]), encShape := .fn, encOp := 0x20#8
    encBuf := [0x31#8, 0x00#8, 0x32#8], encIdx := 1
    trace := [.pin .en .high, .pin .rst .low, .pin .rst .high, .pin .cs .low, .tx 0x20#8, .tx 0x31#8]
    rx := Rx.initial, rxFrame := some [0x20#8, 0x31#8] }

/-- The same block at the end of that frame. -/
def releasing : State := { sending with enc := .eRelease }

/-! ### Ill-formed terms are refused (R131, R132, R62) -/

theorem test_wf_digits_zero : ({ Config.resetConfiguration with digits := 0 } : Configuration).wf = false := by decide
theorem test_wf_digits_seventeen : ({ Config.resetConfiguration with digits := 17 } : Configuration).wf = false := by decide
theorem test_wf_pins_equal : ({ Config.resetConfiguration with pinRst := 2 } : Configuration).wf = false := by decide
theorem test_wf_clock_zero : ({ Config.resetConfiguration with clockHz := 0 } : Configuration).wf = false := by decide
theorem test_wf_digits_bounds :
    ({ Config.resetConfiguration with digits := 1 } : Configuration).wf = true ∧
    ({ Config.resetConfiguration with digits := 16 } : Configuration).wf = true := by decide

theorem test_wf_arguments :
    (Instr.writeChar 256 0).wf = false ∧ (Instr.writeChar 0 256).wf = false ∧ (Instr.writeString 256 []).wf = false ∧
    (Instr.writeString 0 [0x31, 256]).wf = false ∧ (Instr.loadCustomFont 256 [1, 1, 1, 1, 1]).wf = false ∧
    (Instr.loadCustomFont 2 [1, 2, 3]).wf = false ∧ (Instr.loadCustomFont 2 [1, 2, 3, 4, 256]).wf = false ∧
    (Instr.setBrightness 256).wf = false ∧ (Instr.fullTest (2 ^ 32)).wf = false ∧
    (Instr.glyphWrite 0 [1, 2, 3, 4, 5, 6]).wf = false := by decide

/-- TL1 to TL4: construction refuses the same four. -/
theorem test_construct_refused :
    refusal (construct { Config.resetConfiguration with digits := 0 }) = some .badConfig ∧
    refusal (construct { Config.resetConfiguration with digits := 17 }) = some .badConfig ∧
    refusal (construct { Config.resetConfiguration with pinRst := 2 }) = some .badConfig ∧
    refusal (construct { Config.resetConfiguration with clockHz := 0 }) = some .badConfig := by decide

/-! ### Frames written out from the encoding (R56, R62) -/

/-- TE11: `0010 1011` is the cell layout with `pppp = 1011`. -/
theorem test_decode_cellWrite : decodeFrame [0b00101011#8, 0x41#8] = .ok (.cellWrite 11#4 [0x41#8]) := by decide
/-- TE12: `0100 1111` is the glyph layout with `iiii = 1111`. -/
theorem test_decode_glyphWrite : decodeFrame [0b01001111#8] = .ok (.glyphWrite 15#4 []) := by decide
theorem test_decode_setDigits : decodeFrame [0b11100000#8, 0x0F#8] = .ok (.setDigits 0x0F#8) := by decide
theorem test_decode_setBrightness : decodeFrame [0b11100100#8, 0x80#8] = .ok (.setBrightnessCmd 0x80#8) := by decide
theorem test_decode_normal : decodeFrame [0b11101000#8] = .ok .normal := by decide
theorem test_decode_lampTest : decodeFrame [0b11101001#8] = .ok .lampTest := by decide

/-- TE13 and U18: opcodes of no command, and payloads that do not fit. -/
theorem test_decode_refused :
    decodeFrame [0xE1#8] = .error (.unassignedOpcode 0xE1#8) ∧ decodeFrame [0x30#8] = .error (.unassignedOpcode 0x30#8) ∧
    decodeFrame [0x00#8] = .error (.unassignedOpcode 0x00#8) ∧ decodeFrame [0xFF#8] = .error (.unassignedOpcode 0xFF#8) ∧
    decodeFrame [0xE0#8] = .error (.payloadLength 0xE0#8 0) ∧ decodeFrame [0xE9#8, 0x31#8] = .error (.payloadLength 0xE9#8 1) ∧
    decodeFrame [0x40#8, 1, 2, 3, 4, 5, 6] = .error (.payloadLength 0x40#8 6) := by decide

/-- The host's table words: the opcode alone, with a zero payload byte where the command has one. -/
theorem test_table_words :
    decodeTableWord 8 0x2B = some (.cellWrite 11#4 []) ∧ decodeTableWord 8 0x4F = some (.glyphWrite 15#4 []) ∧
    decodeTableWord 8 0xE0 = some (.setDigits 0x00#8) ∧ decodeTableWord 16 0xFFE4 = some (.setBrightnessCmd 0xFF#8) ∧
    decodeTableWord 8 0xE8 = some .normal ∧ decodeTableWord 8 0xE9 = some .lampTest ∧ decodeTableWord 8 0x30 = none := by
  decide

/-- A table word placed after reset is run by the next step. -/
theorem test_table_word_runs :
    (after (step (State.reset.withFetchWord 8 0xE9))).map (fun t => (t.rx.lamp, t.trace)) =
      some (some true, [.pin .cs .high]) := by decide

/-! ### Opcode arithmetic, payloads, bit order -/

/-- TE1 to TE4. -/
theorem test_cellOpcode :
    [0, 7, 15, 16, 31, 32, 0xC0, 0xC4, 0xC8, 0xC9, 0xE0, 0xFF].map cellOpcode =
      [0x20#8, 0x27, 0x2F, 0x30, 0x3F, 0x40, 0xE0, 0xE4, 0xE8, 0xE9, 0x00, 0x1F] := by decide
/-- TE5 and TE6. -/
theorem test_glyphOpcode :
    [0, 4, 15, 16, 0xA0, 0xA4, 0xBF, 0xC0].map glyphOpcode = [0x40#8, 0x44, 0x4F, 0x50, 0xE0, 0xE4, 0xFF, 0x00] := by decide
/-- TE7. -/
theorem test_digitsPayload :
    digitsPayload { Config.resetConfiguration with digits := 1 } = 0x00#8 ∧
    digitsPayload { Config.resetConfiguration with digits := 16 } = 0x0F#8 := by decide
/-- TE8 and TE9. -/
theorem test_bit_order :
    byteBits 0xE4#8 = [false, false, true, false, false, true, true, true] ∧
    byteBits 0x31#8 = [true, false, false, false, true, true, false, false] := by decide

/-! ### Lifecycle -/

/-- W10, TL6: the 15 events for eight digits, and the digit frame of one digit. -/
theorem test_init_events :
    events (exec .init (fresh 13)) = some ([.cfgPins, .busOpen 1, .pin .en .high, .sleep 2, .pin .rst .low, .sleep 2,
      .pin .rst .high] ++ onBus [0xE0#8, 0x07#8] ++ onBus [0xE4#8, 0xFF#8]) := by decide
/-- TL12: `set_level(RST, L)` fails. -/
theorem test_init_reset_pin_fails :
    faultOf (exec .init { State.reset with results := [true, true, true, false] }) =
      some ⟨.pinSetError, some .init, .resetSequencer .cReset .rsAssert⟩ := by decide
/-- TL6: the payload of one digit is zero, and F1 sends it. -/
theorem test_initSetDigits_one :
    events (exec .initSetDigits { atInit .cDigits 4 with cfg := { Config.resetConfiguration with digits := 1 } }) =
      some (onBus [0xE0#8, 0x00#8]) := by decide
/-- R86. -/
theorem test_initBrightness : events (exec .initBrightness (atInit .cBright 4)) = some (onBus [0xE4#8, 0xFF#8]) := by decide
/-- W9, TL14. -/
theorem test_resetSequence :
    events (exec .resetSequence (atInit .cReset 2)) = some [.sleep 2, .pin .rst .low, .sleep 2, .pin .rst .high] := by decide
/-- TL17: one `BusClose`, and no pin driven. -/
theorem test_teardown_ready :
    (after (exec .teardown (ready 0))).map (fun t => (t.trace, t.dev, t.busOpen, t.lvlEn)) =
      some ([.busClose], .destroyed, false, .driven .high) := by decide
/-- TL16. -/
theorem test_teardown_never_opened :
    (after (exec .teardown State.reset)).map (fun t => (t.trace, t.dev)) = some ([], .destroyed) := by decide

/-! ### Display operations -/

/-- TO1. -/
theorem test_writeChar :
    events (exec (.writeChar 3 0x35) (ready 4)) = some (onBus [0x23#8, 0x35#8]) ∧
    observer (exec (.writeChar 3 0x35) (ready 4)) (fun rx => rx.cellAt 3) = some 0x35#8 := by decide
/-- TO6: a position that wraps to LAMP_TEST with a payload. R59: one that wraps to SET_BRIGHTNESS or
to SET_DIGITS is undefined too. P4: after its undefined first frame the second writes no field. -/
theorem test_writeChar_wraps :
    events (exec (.writeChar 0xC9 0x31) (ready 4)) = some (onBus [0xE9#8, 0x31#8]) ∧
    (after (exec (.writeChar 0xC9 0x31) (ready 4))).map (fun t => (t.rx.undef, t.rx.digits)) = some (true, none) ∧
    (after (exec (.writeChar 0xC4 0x10) (ready 4))).map (fun t => t.rx) = some Rx.initial.undefined ∧
    (after (exec (.writeChar 0xC0 0x05) (ready 4))).map (fun t => t.rx) = some Rx.initial.undefined ∧
    (after (exec (.writeChar 0xC4 0x10) { ready 4 with rx := (ready 0).rx.receive [0x26#8, 0x41#8, 0x42#8, 0x43#8] })).map
      (fun t => t.rx) = some Rx.initial.undefined := by decide
/-- W3. -/
theorem test_writeString_zero :
    events (exec (.writeString 0 [0x41, 0x42, 0x00, 0x43]) (ready 5)) = some (onBus [0x20#8, 0x41#8, 0x42#8]) := by decide
/-- TO10 and TO11: the last two cells, and a run past them. -/
theorem test_writeString_bound :
    observer (exec (.writeString 6 [0x31, 0x32]) (ready 5)) (fun rx => rx.cellAt 7) = some 0x32#8 ∧
    (after (exec (.writeString 7 [0x31, 0x32]) (ready 5))).map (fun t => t.rx.undef) = some true := by decide
/-- W6. -/
theorem test_loadCustomFont :
    events (exec (.loadCustomFont 4 [0x14, 0x14, 0x7F, 0x0A, 0x0A]) (ready 8)) =
      some (onBus [0x44#8, 0x14#8, 0x14#8, 0x7F#8, 0x0A#8, 0x0A#8]) := by decide
/-- TO13: a zero cuts the upload short, and the bytes not sent are unknown. U4: an identifier that wraps to a cell opcode. -/
theorem test_loadCustomFont_zero :
    events (exec (.loadCustomFont 1 [9, 0, 2, 3, 4]) (ready 4)) = some (onBus [0x41#8, 0x09#8]) ∧
    observer (exec (.loadCustomFont 1 [9, 0, 2, 3, 4]) (ready 4)) (fun rx => rx.glyphAt 1 0) = some 0x09#8 ∧
    observer (exec (.loadCustomFont 1 [9, 0, 2, 3, 4]) (ready 4)) (fun rx => rx.glyphAt 1 1) = none ∧
    (after (exec (.loadCustomFont 0xE0 [1, 0, 0, 0, 0]) (ready 4))).map (fun t => t.rx.undef) = some true := by decide
/-- TO17: a zero level is sent. -/
theorem test_setBrightness_zero :
    events (exec (.setBrightness 0) (ready 4)) = some (onBus [0xE4#8, 0x00#8]) ∧
    observer (exec (.setBrightness 0) (ready 4)) (fun rx => rx.bright) = some 0x00#8 := by decide
/-- W8. -/
theorem test_fullTest :
    events (exec (.fullTest 1000) (ready 6)) = some (onBus [0xE9#8] ++ [.sleep 1000] ++ onBus [0xE8#8]) := by decide
/-- TO26: `Tx(0xE8)` fails. -/
theorem test_fullTest_tx_fails :
    faultOf (exec (.fullTest 5) { ready 0 with results := [true, true, true, true, false] }) =
      some ⟨.txError, some (.fullTest 5), .encoder .cFrame2 .eOpcode⟩ := by decide
/-- W5. -/
theorem test_clear : events (exec .clear (ready 11)) = some (onBus (List.replicate 9 0x20#8)) := by decide

/-- TO24, TL19, TG1: the checks of admission. -/
theorem test_admission :
    faultOf (exec (.writeChar 0 0x31) State.reset) = some ⟨.notReady, some (.writeChar 0 0x31), .controller .cIdle⟩ ∧
    faultOf (exec .init gone) = some ⟨.useAfterTeardown, some .init, .controller .cIdle⟩ ∧
    faultOf (exec (.writeChar 0 1) gone) = some ⟨.useAfterTeardown, some (.writeChar 0 1), .controller .cIdle⟩ := by decide

/-- The codes of R126. -/
theorem test_fault_codes :
    [FaultKind.fatalPinConfig, .fatalBusOpen, .notReady, .useAfterTeardown, .txError, .pinSetError].map FaultKind.code =
      [1, 2, 3, 4, 5, 6] := by decide

/-! ### Wire commands -/

/-- TX4: a cell write before any digit count. -/
theorem test_cellWrite_unknown_digits :
    (after (exec (.cellWrite 0 [0x31#8]) State.reset)).map (fun t => t.rx.undef) = some true := by decide
/-- TO8: an empty cell write, and U2: one at the digit count (log 15). -/
theorem test_cellWrite_empty :
    (after (exec (.cellWrite 2 []) (ready 0))).map (fun t => t.rx) = some (ready 0).rx ∧
    (after (exec (.cellWrite 8 []) (ready 0))).map (fun t => t.rx.undef) = some true := by decide
/-- TO14. -/
theorem test_glyphWrite :
    observer (exec (.glyphWrite 15 [1, 2, 3, 4]) (ready 0)) (fun rx => rx.glyphAt 15 3) = some 4#8 ∧
    observer (exec (.glyphWrite 15 [1, 2, 3, 4]) (ready 0)) (fun rx => rx.glyphAt 15 4) = none := by decide
/-- TX9. -/
theorem test_setDigits :
    (after (exec (.setDigits 0x0F) State.reset)).map (fun t => t.rx.digits) = some (some 16) ∧
    (after (exec (.setDigits 0x10) State.reset)).map (fun t => t.rx.undef) = some true := by decide
theorem test_setBrightnessCmd :
    observer (exec (.setBrightnessCmd 0xFF) State.reset) (fun rx => rx.bright) = some 0xFF#8 := by decide
/-- TX5 and TX6. -/
theorem test_lampTest_normal :
    (after (exec .lampTest State.reset)).map (fun t => t.rx.lamp) = some (some true) ∧
    (after (exec .normal State.reset)).map (fun t => t.rx.lamp) = some (some false) := by decide
/-- TX3: the reset pin driven low makes the observer forget. -/
theorem test_observer_forgets :
    (Observer.ofTrace (onBus [0xE0#8, 0x07#8] ++ onBus [0x23#8, 0x35#8] ++ [.pin .rst .low])).rx = Rx.initial := by decide

/-! ### Witnesses: the hypotheses of each obligation are met -/

theorem accepting_ready (n : Nat) : (ready n).Accepting ∧ (ready n).Operational := ⟨⟨rfl, rfl, rfl⟩, rfl, rfl⟩
theorem accepting_fresh (n : Nat) : (fresh n).Accepting ∧ (fresh n).dev = .uninitialized := ⟨⟨rfl, rfl, rfl⟩, rfl⟩
theorem succeeds_ready (n : Nat) : (ready n).Succeeds n [] := (List.append_nil _).symm
theorem succeeds_fresh (n : Nat) : (fresh n).Succeeds n [] := (List.append_nil _).symm

/-- The bounds of the digit count, and two states at rest that differ in every encoder register and step. -/
theorem witness_ResetHoldsConstructionValues :
    (∃ t, construct { Config.resetConfiguration with digits := 16 } = .next t) ∧
    (let a : State := { gone with calls := [.teardown] };
      let b : State := { a with encShape := .fn, encOp := 0xFF#8, encBuf := [0x31#8], encIdx := 7 };
      a ≠ b ∧ a.withoutUnread = b.withoutUnread ∧ ∃ t, step a = .next t) := ⟨⟨_, rfl⟩, by decide, rfl, _, rfl⟩

theorem witness_ConstructionRefuses_one_sixteen_zero_seventeen :
    (1 ≤ (1#8).toNat ∧ (16#8).toNat ≤ 16 ∧ [0, 1, 2, 3, 4].Nodup ∧ 0 < 1) ∧ ¬(1 ≤ (0#8).toNat) ∧ ¬((17#8).toNat ≤ 16) := by
  decide

theorem witness_OpcodeIsBasePlusArgument : (255 < 256 ∧ 0 < 256) ∧ (15 ≤ 15 ∧ 0 ≤ 15) := by decide

theorem witness_WireBits : [0xE4#8, 0xFF#8][1]? = some 0xFF#8 ∧ 7 < 8 := by decide

/-- Both bounds of the digit count, and each way to be outside it. -/
theorem witness_CellWrite :
    (({ Rx.initial with digits := some 16 } : Rx).undef = false ∧
      ({ Rx.initial with digits := some 16 } : Rx).digits = some 16 ∧ 16 ≤ 16 ∧ (15#4).toNat < 16 ∧
      (15#4).toNat + [0x31#8].length ≤ 16) ∧
    (({ Rx.initial with digits := some 1 } : Rx).digits = some 1 ∧ 1 < (0#4).toNat + [0x31#8, 0x32#8].length) ∧
    (({ Rx.initial with digits := some 8 } : Rx).digits = some 8 ∧ 8 ≤ (8#4).toNat ∧
      ¬8 < (8#4).toNat + ([] : List Byte).length) ∧
    Rx.initial.digits = none := by decide

theorem witness_GlyphWrite :
    State.reset.rx.undef = false ∧ [1#8, 2, 3, 4, 5].length ≤ 5 ∧ ([] : List Byte).length ≤ 5 := by decide

theorem witness_SetDigits :
    State.reset.rx.undef = false ∧ (0x0F#8).toNat ≤ 0x0F ∧ 0x0F < (0x10#8).toNat ∧ ([] : List Byte).length ≠ 1 ∧ [1#8, 2#8].length ≠ 1 := by decide

theorem witness_BrightnessLampAndNormal : State.reset.rx.undef = false ∧ ([] : List Byte).length ≠ 1 ∧ [0x31#8] ≠ [] := by decide

/-- A value at each edge of each range. -/
theorem witness_WrongFrames :
    (0x1F#8).toNat < 0x20 ∧ (0x30 ≤ (0x30#8).toNat ∧ (0x3F#8).toNat < 0x40) ∧
    (0x50 ≤ (0x50#8).toNat ∧ (0xE1#8 : Byte) ∉ [0xE0#8, 0xE4#8, 0xE8#8, 0xE9#8]) ∧
    ((0x40 ≤ (0x4F#8).toNat ∧ (0x4F#8).toNat < 0x50) ∧ 5 < [1#8, 2, 3, 4, 5, 6].length) ∧
    ((0xE0#8 : Byte) ∈ [0xE0#8, 0xE4#8] ∧ ([] : List Byte).length ≠ 1) ∧
    ((0xE9#8 : Byte) ∈ [0xE8#8, 0xE9#8] ∧ [0x31#8] ≠ []) := by decide

/-- A state after an undefined frame. -/
theorem witness_UndefinedObserver :
    Instr.normal.isWire = true ∧ ({ State.reset with rx := State.reset.rx.undefined } : State).rx.undef = true := by decide

theorem witness_WriteChar :
    (ready 4).Accepting ∧ (ready 4).Operational ∧ 255 < 256 ∧ 0 < 256 ∧ (ready 4).Succeeds 4 [] :=
  ⟨(accepting_ready 4).1, (accepting_ready 4).2, by decide, by decide, succeeds_ready 4⟩

theorem witness_WriteString :
    (ready 4).Accepting ∧ (ready 4).Operational ∧ 255 < 256 ∧ (∀ c ∈ [0x31, 0x00, 255], c < 256) ∧
    [0x31#8] = ([0x31, 0x00, 255].map (BitVec.ofNat 8)).takeWhile (fun b => b != 0x00#8) ∧
    (ready 4).Succeeds (3 + [0x31#8].length) [] :=
  ⟨(accepting_ready 4).1, (accepting_ready 4).2, by decide, by decide, by decide, succeeds_ready 4⟩

theorem witness_LoadCustomFont :
    (ready 3).Accepting ∧ (ready 3).Operational ∧ 255 < 256 ∧ [0, 1, 2, 3, 255].length = 5 ∧
    (∀ b ∈ [0, 1, 2, 3, 255], b < 256) ∧
    ([] : List Byte) = ([0, 1, 2, 3, 255].map (BitVec.ofNat 8)).takeWhile (fun b => b != 0x00#8) ∧
    (ready 3).Succeeds (3 + ([] : List Byte).length) [] :=
  ⟨(accepting_ready 3).1, (accepting_ready 3).2, by decide, by decide, by decide, by decide, succeeds_ready 3⟩

theorem witness_SetBrightness : (ready 4).Accepting ∧ (ready 4).Operational ∧ 255 < 256 ∧ (ready 4).Succeeds 4 [] :=
  ⟨(accepting_ready 4).1, (accepting_ready 4).2, by decide, succeeds_ready 4⟩

theorem witness_FullTest :
    (ready 6).Accepting ∧ (ready 6).Operational ∧ 4294967295 < 2 ^ 32 ∧ 0 < 2 ^ 32 ∧ (ready 6).Succeeds 6 [] :=
  ⟨(accepting_ready 6).1, (accepting_ready 6).2, by decide, by decide, succeeds_ready 6⟩

/-- Also for `ClearIsWriteStringOfSpaces`. -/
theorem witness_Clear :
    (ready 11).cfg.wf = true ∧ (ready 11).Accepting ∧ (ready 11).Operational ∧
    (ready 11).Succeeds (3 + (ready 11).cfg.digits.toNat) [] :=
  ⟨by decide, (accepting_ready 11).1, (accepting_ready 11).2, succeeds_ready 11⟩

theorem witness_FnFrame :
    (ready 4).fault = none ∧ (ready 4).busOpen = true ∧ (0x31#8 : Byte) ≠ 0x00#8 ∧ (ready 4).Succeeds 4 [] ∧
    (ready 4).Succeeds 3 [true] := ⟨rfl, rfl, by decide, succeeds_ready 4, rfl⟩

theorem witness_BeforeInit :
    State.reset.Accepting ∧ State.reset.dev = .uninitialized ∧ (Request.writeChar 255 255).isDisplay = true ∧
    (Request.writeChar 255 255).wf = true := ⟨⟨rfl, rfl, rfl⟩, rfl, rfl, rfl⟩

theorem witness_AfterTeardown :
    gone.Accepting ∧ gone.dev = .destroyed ∧ Request.init ≠ .teardown ∧ Request.init.wf = true ∧
    (Request.fullTest 4294967295).wf = true := ⟨⟨rfl, rfl, rfl⟩, rfl, by decide, rfl, by decide⟩

theorem witness_IllTyped :
    State.reset.fault = none ∧ State.reset.idle = true ∧ 256 ≤ 256 ∧ [1, 2, 3, 4].length ≠ 5 ∧ (∃ c ∈ [0, 256], 256 ≤ c) ∧
    2 ^ 32 ≤ 4294967296 ∧ (Request.loadCustomFont 16 [0, 255, 0, 255, 0]).wf = true ∧ (Request.writeChar 20 0).wf = true :=
  ⟨rfl, rfl, by decide, by decide, ⟨256, by decide, by decide⟩, by decide, by decide, by decide⟩

theorem witness_AwayFromTheirPosition :
    sending.fault = none ∧ sending.ctl ≠ .cIdle ∧ sending.ctl ≠ .cReset ∧ sending.ctl ≠ .cDigits ∧ sending.ctl ≠ .cBright := by
  decide

theorem witness_DisplayOperationFrame :
    Request.clear.isDisplay = true ∧ ∃ t, exec Request.clear.toInstr (ready 11) = .next t := ⟨rfl, _, rfl⟩

theorem witness_TablesFrames :
    (Request.fullTest 7).isDisplay = true ∧ (ready 6).Accepting ∧
    ∃ t, exec (Request.fullTest 7).toInstr (ready 6) = .next t ∧ t.fault = none :=
  ⟨rfl, (accepting_ready 6).1, _, rfl, by decide⟩

/-- Also for `InitHoldsResetLowTwoMilliseconds`. -/
theorem witness_Init :
    (fresh 13).Accepting ∧ (fresh 13).dev = .uninitialized ∧ (fresh 13).Succeeds 13 [] ∧
    ∃ t, exec .init (fresh 13) = .next t :=
  ⟨(accepting_fresh 13).1, rfl, succeeds_fresh 13, _, rfl⟩

theorem witness_InitInReady : (ready 0).Accepting ∧ (ready 0).dev = .ready := ⟨(accepting_ready 0).1, rfl⟩

theorem witness_InitAndClear :
    (fresh 24).Accepting ∧ (fresh 24).dev = .uninitialized ∧ (fresh 24).cfg.wf = true ∧ (fresh 24).rx.undef = false ∧
    (fresh 24).Succeeds (13 + (3 + (fresh 24).cfg.digits.toNat)) [] ∧
    ∃ t u, exec .init (fresh 24) = .next t ∧ exec .clear t = .next u :=
  ⟨(accepting_fresh 24).1, rfl, by decide, rfl, succeeds_fresh 24, _, _, rfl, rfl⟩

theorem witness_FailingBringUp :
    (fresh 0).Accepting ∧ (fresh 0).dev = .uninitialized ∧
    ({ fresh 0 with results := [false] } : State).results = false :: [] ∧
    ({ fresh 0 with results := [true, false] } : State).results = true :: false :: [] :=
  ⟨(accepting_fresh 0).1, rfl, rfl, rfl⟩

theorem witness_ResetSequence :
    (atInit .cReset 2).fault = none ∧ (atInit .cReset 2).atStep .cReset = true ∧ (atInit .cReset 2).Succeeds 2 [] :=
  ⟨rfl, rfl, rfl⟩

theorem witness_InitSetDigits :
    (atInit .cDigits 4).fault = none ∧ (atInit .cDigits 4).atStep .cDigits = true ∧ (atInit .cDigits 4).busOpen = true ∧
    (atInit .cDigits 4).Succeeds 4 [] := ⟨rfl, rfl, rfl, rfl⟩

theorem witness_InitBrightness :
    (atInit .cBright 4).fault = none ∧ (atInit .cBright 4).atStep .cBright = true ∧ (atInit .cBright 4).busOpen = true ∧
    (atInit .cBright 4).Succeeds 4 [] := ⟨rfl, rfl, rfl, rfl⟩

theorem witness_Teardown :
    ((ready 0).Accepting ∧ (ready 0).busOpen = true) ∧ (gone.Accepting ∧ gone.busOpen = false ∧ gone.dev = .destroyed) :=
  ⟨⟨(accepting_ready 0).1, rfl⟩, ⟨rfl, rfl, rfl⟩, rfl, rfl⟩

theorem witness_BringUpFrame :
    (∃ t, exec .init (fresh 0) = .next t) ∧ (∃ t, exec .initSetDigits (atInit .cDigits 4) = .next t) ∧
    (∃ t, exec .initBrightness (atInit .cBright 4) = .next t) ∧
    (∃ t, exec .resetSequence (atInit .cReset 2) = .next t) := ⟨⟨_, rfl⟩, ⟨_, rfl⟩, ⟨_, rfl⟩, ⟨_, rfl⟩⟩

/-- One state for each kind of failing call. -/
theorem witness_FailingCall :
    (let s : State := { releasing with results := [false] };
      s.fault = none ∧ s.results = false :: [] ∧ s.rs = .rsIdle ∧ s.enc = .eRelease) ∧
    (let s : State := { atInit .cReset 0 with rs := .rsAssert, started := true, results := [false] };
      s.fault = none ∧ s.results = false :: [] ∧ s.enc = .eIdle ∧ s.rs = .rsAssert) ∧
    (let s : State := { atInit .cEn 0 with results := [false] };
      s.fault = none ∧ s.results = false :: [] ∧ s.atStep .cEn = true) ∧
    (let s : State := { sending with encIdx := 0, results := [false] };
      s.fault = none ∧ s.results = false :: [] ∧ s.rs = .rsIdle ∧ s.busOpen = true ∧ s.enc = .ePayload ∧
        s.encShape = .fn ∧ s.encBuf[s.encIdx]? = some 0x31#8 ∧ (0x31#8 : Byte) ≠ 0x00#8) := by decide

theorem witness_Halted : halted.fault ≠ none ∧ Instr.teardown.isWire = false := by decide

theorem witness_EncoderRows :
    sending.fault = none ∧ sending.rs = .rsIdle ∧ sending.busOpen = true ∧ sending.results = true :: good 3 ∧
    (sending.enc = .ePayload ∧ sending.encShape = .fn ∧ sending.encBuf[sending.encIdx]? = some 0x00#8) ∧
    (releasing.enc = .eRelease ∧ releasing.results = true :: good 3) ∧
    (let s : State := { sending with enc := .eOpcode, encShape := .f0 };
      s.enc = .eOpcode ∧ s.encShape = .f0) ∧
    (let s : State := { sending with encShape := .f1 };
      s.enc = .ePayload ∧ s.encShape = .f1 ∧ s.encBuf[0]? = some 0x31#8) ∧
    (let s : State := { sending with encIdx := 3 };
      s.enc = .ePayload ∧ s.encShape = .fn ∧ s.encIdx = s.encBuf.length) := by decide

theorem witness_ResetRows :
    (atInit .cReset 1).fault = none ∧ (atInit .cReset 1).enc = .eIdle ∧ (atInit .cReset 1).results = true :: [] ∧
    (atInit .cReset 1).rs = .rsIdle ∧ (atInit .cReset 1).ctl = .cReset ∧ (atInit .cReset 1).started = false ∧
    ({ atInit .cReset 1 with rs := .rsRelease } : State).rs = .rsRelease := by decide

theorem witness_BringUpRows :
    (let s : State := { gone with calls := [.init] };
      s.fault = none ∧ s.rs = .rsIdle ∧ s.enc = .eIdle ∧ s.ctl = .cIdle ∧ s.started = false ∧ s.calls = .init :: [] ∧
        s.dev = .destroyed) ∧
    (let s : State := { atInit .cOpen 0 with results := [false] };
      s.fault = none ∧ s.rs = .rsIdle ∧ s.enc = .eIdle ∧ s.started = false ∧ s.results = false :: [] ∧ s.ctl = .cOpen) ∧
    (let s : State := { atInit .cBright 0 with started := true };
      s.fault = none ∧ s.rs = .rsIdle ∧ s.enc = .eIdle ∧ s.started = true ∧ s.ctl = .cBright) := by decide

theorem witness_DisplayRows :
    (let s : State := { ready 0 with calls := [.fullTest 0] };
      s.fault = none ∧ s.rs = .rsIdle ∧ s.enc = .eIdle ∧ (Request.fullTest 0).isDisplay = true ∧
        (Request.fullTest 0).wf = true ∧ s.ctl = .cIdle ∧ s.started = false ∧ s.calls = .fullTest 0 :: [] ∧ s.dev = .ready) ∧
    (let s : State := { ready 0 with ctl := .cFrame, started := true, req := some .clear };
      s.fault = none ∧ s.req = some .clear ∧ s.ctl = .cFrame ∧ s.started = true ∧ Request.clear.isDisplay = true) ∧
    (let s : State := { ready 0 with ctl := .cWait, req := some (.fullTest 0) };
      s.fault = none ∧ s.req = some (.fullTest 0) ∧ s.ctl = .cWait ∧ s.started = false) := by decide

/-- A frame that decodes to a command, one that decodes to none, and one that an out-of-range argument made. -/
theorem witness_ReceivedFrame :
    releasing.fault = none ∧ releasing.rs = .rsIdle ∧ releasing.enc = .eRelease ∧
    releasing.rxFrame = some [0x20#8, 0x31#8] ∧ releasing.results = true :: good 3 ∧
    releasing.misaddressed = false ∧ decodeFrame [0x20#8, 0x31#8] = .ok (.cellWrite 0#4 [0x31#8]) ∧
    decodeFrame [0x30#8, 0x31#8] = .error (.unassignedOpcode 0x30#8) ∧
    ({ releasing with req := some (.writeChar 0xC4 0x10) } : State).misaddressed = true := by decide

theorem witness_SequencerSteps :
    (let s : State := { ready 11 with calls := [.clear, .teardown] };
      s.fault = none ∧ s.idle = true ∧ s.calls = .clear :: [.teardown]) := by decide

/-- At rest with an ill-typed request next: the stop of `InvariantBlockIsNeverStuck`. -/
theorem witness_IllTypedStop :
    (let s : State := { gone with calls := [.setBrightness 256] };
      s.Inv ∧ s.fault = none ∧ s.ctl = .cIdle ∧ (Request.setBrightness 256).wf = false ∧
        refusal (step s) = some .badArgument) := by
  refine ⟨⟨by decide, by decide, by decide, by decide, by decide, fun _ => ?_, fun _ h => absurd rfl h, ?_⟩, by decide⟩
  · exact ⟨rfl, rfl, rfl, rfl, by intro h; cases h⟩
  · unfold State.FrameOk; decide

/-- The levels after a failing SetPin: `X` for that pin alone. -/
theorem test_levels_after_failing_pin :
    (after (step { releasing with results := [false] })).map (fun t => (t.failedPin, t.lvlCs, t.lvlRst)) =
      some (some .cs, .unknown, .driven .high) := by decide

/-- The block inside a frame meets every invariant, and steps without a fault; the final state below meets them too. -/
theorem witness_Invariants :
    sending.Inv ∧ sending.DisciplineOk ∧ sending.ObserverOk ∧ sending.LevelsOk ∧ sending.PulseOk ∧ sending.rx.DigitsOk := by
  refine ⟨⟨by decide, by decide, by decide, by decide, by decide, fun _ => ?_, fun _ _ => ?_, ?_⟩, ⟨by decide, fun _ => ?_⟩,
    by unfold State.ObserverOk; decide, fun p => ?_, ⟨by decide, by decide, fun _ => by decide⟩, fun d h => ?_⟩
  · exact ⟨rfl, fun _ => rfl, rfl, rfl⟩
  · exact ⟨⟨_, rfl, rfl, rfl, rfl⟩, fun _ => by decide⟩
  · unfold State.FrameOk; decide
  · show csScan sending.trace = .inFrame 2; decide
  · cases p <;> decide
  · cases h

/-- For the statements about a step without a fault, without an event and with one. -/
theorem witness_Step :
    (∃ t, step sending = .next t ∧ t.fault = none ∧ t.trace = sending.trace) ∧
    (∃ t, step releasing = .next t ∧ t.fault = none ∧ t.trace = releasing.trace ++ [.pin .cs .high]) :=
  ⟨⟨_, rfl, by decide, rfl⟩, ⟨_, rfl, by decide, rfl⟩⟩

/-- For `OnlyBringUpDrivesTheEnablePin`. -/
theorem witness_EnablePin :
    ∃ t, step (atInit .cEn 1) = .next t ∧ t.trace = (atInit .cEn 1).trace ++ [.pin .en .high] := ⟨_, rfl, by decide⟩

/-- A final state after a frame. -/
theorem witness_Final :
    (let s : State := { ready 0 with trace :=
          [.pin .en .high, .pin .rst .low, .pin .rst .high, .pin .cs .low, .tx 0x20#8, .pin .cs .high] };
      s.DisciplineOk ∧ s.LevelsOk ∧ s.Final ∧ Event.pin .cs .low ∈ s.trace) :=
  ⟨⟨by decide, fun _ => by show csScan _ = .between; decide⟩, fun p => by cases p <;> decide, ⟨rfl, rfl, rfl, rfl, rfl⟩,
    by decide⟩

/-- Each operation at the edge of its range, in a block that meets the premises. -/
theorem witness_InRange :
    (ready 11).Accepting ∧ (ready 11).Operational ∧ (ready 11).cfg.wf = true ∧
    (ready 11).rx.digits = some (ready 11).cfg.digits.toNat ∧ (ready 11).rx.undef = false ∧
    (7 < (ready 11).cfg.digits.toNat ∧ 255 < 256) ∧
    (6 < (ready 11).cfg.digits.toNat ∧ 6 + (([0x31, 0x32, 0x00, 0x33].map (BitVec.ofNat 8)).takeWhile (fun b => b != 0x00#8)).length ≤
      (ready 11).cfg.digits.toNat) ∧
    (15 ≤ 15 ∧ [0, 255, 0, 255, 0].length = 5) ∧ 4294967295 < 2 ^ 32 ∧
    ∃ t, exec Request.clear.toInstr (ready 11) = .next t ∧ t.fault = none :=
  ⟨(accepting_ready 11).1, (accepting_ready 11).2, by decide, by decide, rfl, by decide, by decide, by decide, by decide,
    _, rfl, by decide⟩

/-- A cell with each kind of code. -/
theorem witness_Display :
    (let rx : Rx := { Rx.initial with
        lamp := some false
        digits := some 3
        cell := ((Rx.initial.cell.setIfInBounds 0 (some 0x07#8)).setIfInBounds 1 (some 0x3F#8)).setIfInBounds 2 (some 0x20#8)
        cgram := Rx.initial.cgram.setIfInBounds 7 (glyphSlot [1, 2, 3, 4, 5]) };
      rx.undef = false ∧ rx.lamp = some false ∧ rx.digits = some 3 ∧ 2 < 3 ∧ rx.cellAt 0 = some 0x07#8 ∧ rx.cellAt 1 = some 0x3F#8 ∧
        rx.cellAt 2 = some 0x20#8 ∧ (0x07#8).toNat ≤ 7 ∧ rx.glyphAt 7 0 = some 1#8 ∧ rx.glyphAt 7 1 = some 2#8 ∧
        rx.glyphAt 7 2 = some 3#8 ∧ rx.glyphAt 7 3 = some 4#8 ∧ rx.glyphAt 7 4 = some 5#8 ∧
        (0x30 ≤ (0x3F#8).toNat ∧ (0x3F#8).toNat ≤ 0x3F)) ∧
    ({ Rx.initial with lamp := some true } : Rx).lamp = some true ∧ 15 < 16 := by decide

end Sys2Proof.Tests
end

/-! ## The Configuration is never written (R21)

Each operation is shown once to keep `cfg`, in the order of the model: capability calls, rows, whole operations. A step is then
read off `step_effect`, and `exec` off the instruction's level: a wire command (`exec_wire`), a request, a step of bring-up. -/

namespace Sys2Proof.Machine

/-! ### Sequencing and capability calls -/

/-- An operation of the block that writes no field of the Configuration. -/
def KeepsCfg (f : State → State) : Prop := ∀ s, (f s).cfg = s.cfg

theorem KeepsCfg.andThen {f g : State → State} (hf : KeepsCfg f) (hg : KeepsCfg g) : KeepsCfg fun s => (f s).andThen g := by
  intro s
  rcases (f s).andThen_cases g with ⟨_, e⟩ | ⟨_, e⟩
  · exact (congrArg State.cfg e).trans ((hg (f s)).trans (hf s))
  · exact (congrArg State.cfg e).trans (hf s)

theorem KeepsCfg.runAll {fs : List (State → State)} (h : ∀ f ∈ fs, KeepsCfg f) : KeepsCfg fun s => s.runAll fs := fun s =>
  State.runAll_keeps (P := fun t => t.cfg = s.cfg) (fun f hf t ht => (h f hf t).trans ht) s rfl

theorem keepsCfg_setPin (p : Pin) (d : Drive) : KeepsCfg (State.setPin p d) := by
  intro s
  rcases s.setPin_cases p d with e | e <;> simp [e]

theorem keepsCfg_cfgPins : KeepsCfg State.cfgPins := by
  intro s
  rcases s.cfgPins_cases with e | e <;> simp [e]

theorem keepsCfg_openBus : KeepsCfg State.openBus := by
  intro s
  rcases s.openBus_cases with e | e <;> simp [e]

theorem keepsCfg_closeBus : KeepsCfg State.closeBus := by
  intro s
  rcases s.closeBus_cases with ⟨_, e⟩ | ⟨_, e⟩ <;> simp [e]

theorem keepsCfg_frame (c : Command) : KeepsCfg (frame c) := fun s => (encoderKeeps_frame c s).cfg

/-! ### Bring-up -/

theorem keepsCfg_cfgRow : KeepsCfg cfgRow := keepsCfg_cfgPins.andThen fun _ => rfl

theorem keepsCfg_openRow : KeepsCfg openRow := keepsCfg_openBus.andThen fun _ => rfl

theorem keepsCfg_enRow : KeepsCfg enRow := (keepsCfg_setPin .en .high).andThen fun _ => rfl

theorem keepsCfg_rsAssertRow : KeepsCfg rsAssertRow := (keepsCfg_setPin .rst .low).andThen fun _ => rfl

theorem keepsCfg_rsReleaseRow : KeepsCfg rsReleaseRow := (keepsCfg_setPin .rst .high).andThen fun _ => rfl

theorem keepsCfg_resetPulse : KeepsCfg resetPulse := by
  refine KeepsCfg.runAll ?_
  simp only [List.forall_mem_cons]
  exact ⟨fun _ => rfl, fun _ => rfl, keepsCfg_rsAssertRow, fun _ => rfl, keepsCfg_rsReleaseRow, List.forall_mem_nil _⟩

theorem keepsCfg_sendDigits : KeepsCfg sendDigits := fun s => keepsCfg_frame (initSetDigitsCommand s.cfg) s

theorem keepsCfg_sendBrightness : KeepsCfg sendBrightness := keepsCfg_frame initBrightnessCommand

theorem keepsCfg_bringUp : KeepsCfg bringUp := by
  refine KeepsCfg.runAll ?_
  simp only [List.forall_mem_cons]
  exact ⟨keepsCfg_cfgRow, keepsCfg_openRow, keepsCfg_enRow, keepsCfg_resetPulse, fun _ => rfl, keepsCfg_sendDigits,
    fun _ => rfl, keepsCfg_sendBrightness, fun _ => rfl, List.forall_mem_nil _⟩

/-! ### Accepted requests -/

theorem keepsCfg_acceptInit : KeepsCfg acceptInit := by
  intro s
  unfold acceptInit
  split <;> rfl

theorem keepsCfg_initCall : KeepsCfg initCall := by
  refine keepsCfg_acceptInit.andThen fun s => ?_
  split
  · exact keepsCfg_bringUp s
  · rfl

theorem keepsCfg_acceptTeardown : KeepsCfg acceptTeardown := keepsCfg_closeBus

theorem keepsCfg_acceptDisplay (r : Request) : KeepsCfg (acceptDisplay r) := by
  intro s
  unfold acceptDisplay
  split <;> rfl

/-! ### What an instruction answers -/

/-- A request that is not refused gives what accepting it does. -/
theorem request_next {r : Request} {taken : State → State} {s t : State} (h : request r taken s = .next t) :
    t = taken s := by
  rcases request_cases r taken s with ⟨_, _, e⟩ | ⟨_, _, e⟩ | ⟨_, _, _, e⟩ | ⟨_, _, _, e⟩ <;> rw [e] at h <;> cases h
  rfl

/-- A step of bring-up that is not refused gives its effect. -/
theorem atItsStep_next {c : Ctl} {effect : State → State} {s t : State} (h : atItsStep c effect s = .next t) :
    t = effect s := by
  unfold atItsStep at h
  split at h
  · cases h
  · split at h <;> cases h
    rfl

/-- A display operation all of whose parts keep the Configuration keeps it. -/
theorem displayOp_cfg {r : Request} {parts : List (State → State)} (hp : ∀ f ∈ parts, KeepsCfg f) {s t : State}
    (h : displayOp r parts s = .next t) : t.cfg = s.cfg := by
  rw [request_next h]
  refine KeepsCfg.runAll (fs := [acceptDisplay r] ++ parts ++ [opDone]) (fun f hf => ?_) s
  simp only [List.mem_append, List.mem_singleton] at hf
  rcases hf with (rfl | hf) | rfl
  · exact keepsCfg_acceptDisplay r
  · exact hp f hf
  · exact fun _ => rfl

/-- A display operation of one frame. -/
theorem displayOp_frame_cfg {r : Request} {c : Command} {s t : State} (h : displayOp r [frame c] s = .next t) :
    t.cfg = s.cfg :=
  displayOp_cfg (List.forall_mem_singleton.2 (keepsCfg_frame c)) h

theorem execFullTest_cfg {durationMs : Nat} {s t : State} (h : execFullTest durationMs s = .next t) : t.cfg = s.cfg := by
  refine displayOp_cfg ?_ h
  simp only [List.forall_mem_cons]
  exact ⟨keepsCfg_frame _, fun _ => rfl, fun _ => rfl, keepsCfg_frame _, List.forall_mem_nil _⟩

/-! ### The obligation -/

theorem exec_wire_cfg {i : Instr} (hw : i.isWire = true) {s t : State} (h : exec i s = .next t) : t.cfg = s.cfg := by
  rw [exec_wire hw] at h
  cases h
  rfl

theorem exec_cfg (i : Instr) {s t : State} (h : exec i s = .next t) : t.cfg = s.cfg := by
  cases i with
  | init => rw [request_next h]; exact keepsCfg_initCall s
  | initSetDigits => rw [atItsStep_next h]; exact keepsCfg_sendDigits s
  | initBrightness => rw [atItsStep_next h]; exact keepsCfg_sendBrightness s
  | resetSequence => rw [atItsStep_next h]; exact keepsCfg_resetPulse s
  | teardown => rw [request_next h]; exact keepsCfg_acceptTeardown s
  | writeChar | writeString | loadCustomFont | setBrightness | clear => exact displayOp_frame_cfg h
  | fullTest => exact execFullTest_cfg h
  | cellWrite | glyphWrite | setDigits | setBrightnessCmd | normal | lampTest => exact exec_wire_cfg rfl h

theorem Effect.cfg_eq {s t : State} (h : Effect s t) : t.cfg = s.cfg := by
  cases h <;> simp [sent]

theorem step_cfg {s t : State} (h : step s = .next t) : t.cfg = s.cfg := (step_effect h).2.cfg_eq

/-- Settles O47: no row of a step and no operation of `exec` writes a field of the Configuration. -/
theorem configurationIsImmutable : Obligations.ConfigurationIsImmutable :=
  ⟨fun _ _ h => step_cfg h, fun i _ _ h => exec_cfg i h⟩

end Sys2Proof.Machine

/-! ## Bits of a frame on the wire (R68)

Each byte fills eight places of the stream, so byte `n` begins at bit `8n`; within a byte the order is the bit order of the
transport (R40). -/

namespace Sys2Proof

@[simp] theorem length_byteBits (b : Byte) : (byteBits b).length = 8 := rfl

/-- The transport's bit order sends bit `j` of a byte in place `j`. -/
theorem getElem?_byteBits (b : Byte) {j : Nat} (hj : j < 8) : (byteBits b)[j]? = some (b.getLsbD j) := by
  interval_cases j <;> rfl

@[simp] theorem frameBits_cons (b : Byte) (frame : List Byte) : frameBits (b :: frame) = byteBits b ++ frameBits frame := rfl

/-- A bit of the first byte of a frame. -/
theorem getElem?_frameBits_head (b : Byte) (frame : List Byte) {j : Nat} (hj : j < 8) :
    (frameBits (b :: frame))[j]? = some (b.getLsbD j) := by
  rw [frameBits_cons, List.getElem?_append_left (by simpa using hj), getElem?_byteBits b hj]

/-- From bit 8 on, a frame's bits are those of its rest. -/
theorem getElem?_frameBits_tail (b : Byte) (frame : List Byte) (k : Nat) :
    (frameBits (b :: frame))[8 + k]? = (frameBits frame)[k]? := by
  rw [frameBits_cons, List.getElem?_append_right (by simp), length_byteBits, Nat.add_sub_cancel_left]

/-- Settles O6, by induction on the frame: the place of a bit moves by eight with each byte before its own. -/
theorem wireBitsAreLeastSignificantFirst : Obligations.WireBitsAreLeastSignificantFirst := by
  intro frame n j b hb hj
  induction frame generalizing n with
  | nil => cases hb
  | cons a frame ih =>
    cases n with
    | zero =>
      obtain rfl : a = b := Option.some.inj hb
      rw [Nat.mul_zero, Nat.zero_add, getElem?_frameBits_head a frame hj]
    | succ n =>
      have place : 8 * (n + 1) + j = 8 + (8 * n + j) := by omega
      rw [place, getElem?_frameBits_tail, ih n hb]

end Sys2Proof

/-! ## Opcodes with an argument (R57, R58)

Modulo 256 the sum is that of the bytes. For an argument below 16 it is the layout `hi ++ a` of R56: the base has only its high
nibble and the argument only its low one, so nothing is carried. -/

namespace Sys2Proof.Machine

/-! ### Addition modulo 256 -/

theorem toNat_cellOpcode (a : Nat) : (cellOpcode a).toNat = (0x20 + a) % 256 := by
  simp [cellOpcode, opCell, byteOf]

theorem toNat_glyphOpcode (a : Nat) : (glyphOpcode a).toNat = (0x40 + a) % 256 := by
  simp [glyphOpcode, opGlyph, byteOf]

/-! ### Field insert -/

/-- An argument below 16 has a zero high nibble as a byte. -/
theorem byteOf_eq_append {a : Nat} (ha : a ≤ 15) : byteOf a = 0#4 ++ BitVec.ofNat 4 a := by
  interval_cases a <;> rfl

/-- An OR inserts an argument below 16 under a high nibble. -/
theorem or_byteOf_eq_append (hi : Nibble) {a : Nat} (ha : a ≤ 15) :
    (hi ++ 0#4 : Byte) ||| byteOf a = hi ++ BitVec.ofNat 4 a := by
  rw [byteOf_eq_append ha, BitVec.or_append, BitVec.or_zero, BitVec.zero_or]

/-- So does the addition, which has nothing to carry. -/
theorem add_byteOf_eq_append (hi : Nibble) {a : Nat} (ha : a ≤ 15) :
    (hi ++ 0#4 : Byte) + byteOf a = hi ++ BitVec.ofNat 4 a := by
  have disjoint : (hi ++ 0#4 : Byte) &&& byteOf a = 0#8 := by
    rw [byteOf_eq_append ha, BitVec.and_append, BitVec.and_zero, BitVec.zero_and]; rfl
  rw [BitVec.add_eq_or_of_and_eq_zero _ _ disjoint, or_byteOf_eq_append hi ha]

/-- What R58 says of an opcode holds of the sum of any base with a zero low nibble and an argument below 16. -/
theorem add_byteOf_field_insert (hi : Nibble) {a : Nat} (ha : a ≤ 15) :
    ((hi ++ 0#4 : Byte) + byteOf a).extractLsb' 4 4 = hi ∧
    ((hi ++ 0#4 : Byte) + byteOf a).extractLsb' 0 4 = BitVec.ofNat 4 a ∧
    (hi ++ 0#4 : Byte) + byteOf a = (hi ++ 0#4) ||| BitVec.ofNat 8 a := by
  rw [add_byteOf_eq_append hi ha]
  exact ⟨BitVec.extractLsb'_append_eq_left, BitVec.extractLsb'_append_eq_right, (or_byteOf_eq_append hi ha).symm⟩

/-- Settles O5: the commands' opcodes are the sums modulo 256, and for an argument below 16 these are field inserts. -/
theorem opcodeIsBasePlusArgumentModulo256 : Obligations.OpcodeIsBasePlusArgumentModulo256 := by
  refine ⟨fun a _ _ _ => ⟨toNat_cellOpcode a, toNat_cellOpcode a, toNat_glyphOpcode a⟩, fun a ha => ?_⟩
  obtain ⟨cellHigh, cellLow, cellOr⟩ := add_byteOf_field_insert 0x2#4 ha
  obtain ⟨glyphHigh, glyphLow, glyphOr⟩ := add_byteOf_field_insert 0x4#4 ha
  exact ⟨cellHigh, cellLow, cellOr, glyphHigh, glyphLow, glyphOr⟩

end Sys2Proof.Machine

/-! ## FN frames against F0 and F1 frames (R77, R78)

The events of a frame are those of its bytes, so two commands of the same bytes leave the same trace. FN sends its payload up
to the first zero byte; F1 sends its one byte whatever it is. -/

namespace Sys2Proof.Machine

/-! ### The bytes of the shapes -/

theorem Command.bytes_fn_singleton {b : Byte} (h : b ≠ terminator) (op : Byte) :
    (Command.fn op [b]).bytes = (Command.f1 op b).bytes := by
  rw [bytes, bytes, untilZero_cons h, untilZero_nil]

theorem Command.bytes_fn_nil (op : Byte) : (Command.fn op []).bytes = (Command.f0 op).bytes := by
  rw [bytes, bytes, untilZero_nil]

theorem Command.bytes_fn_zero (op : Byte) : (Command.fn op [terminator]).bytes = (Command.f0 op).bytes := by
  rw [bytes, bytes, untilZero_cons_zero]

/-! ### The events of a frame -/

/-- A frame makes two calls for chip-select and one for each byte; when all succeed it adds exactly the events of its bytes. -/
theorem frame_trace_of_success (c : Command) {s : State} {rest : List Bool} (hf : s.fault = none) (ho : s.busOpen = true)
    (hr : s.Succeeds (2 + c.bytes.length) rest) : (frame c s).trace = s.trace ++ frameEvents c.bytes := by
  rw [frame_of_success c hf ho hr]

/-- The shape of a command shows in its events only through the bytes it sends. -/
theorem frame_trace_eq_of_bytes_eq {c d : Command} (h : c.bytes = d.bytes) {s : State} {rest : List Bool}
    (hf : s.fault = none) (ho : s.busOpen = true) (hr : s.Succeeds (2 + d.bytes.length) rest) :
    (frame c s).trace = (frame d s).trace := by
  rw [frame_trace_of_success d hf ho hr, frame_trace_of_success c hf ho (h ▸ hr), h]

/-- Settles O20: FN without a zero byte sends the bytes of F1 or F0, FN with `[0x00]` those of F0, and F1 sends its zero. -/
theorem fnFrameAgainstF1AndF0 : Obligations.FnFrameAgainstF1AndF0 := by
  intro s op b rest hf ho
  refine ⟨fun hb hr => ?oneByte, fun hr => ?noByte, fun hr => ?zeroByte, fun hr => ?zeroSent⟩
  case oneByte => exact frame_trace_eq_of_bytes_eq (Command.bytes_fn_singleton hb op) hf ho hr
  case noByte => exact frame_trace_eq_of_bytes_eq (Command.bytes_fn_nil op) hf ho hr
  case zeroByte => exact frame_trace_eq_of_bytes_eq (Command.bytes_fn_zero op) hf ho hr
  case zeroSent => exact frame_trace_of_success (.f1 op 0x00#8) hf ho hr

end Sys2Proof.Machine

/-! ## INIT with every call succeeding (R80, R90)

Bring-up is cut after the reset pulse: steps 1 to 4 make one call each but the pulse, which makes two; steps 5 and 6 are each
a frame of two bytes, sent away from `C_FRAME`, so that the observer takes it by its bytes (R59). -/

namespace Sys2Proof.Machine

/-! ### The frames of steps 5 and 6 -/

/-- Only at `C_FRAME` can an operation's argument misaddress the frame (R59). -/
theorem State.misaddressed_of_ne_cFrame {s : State} (h : s.ctl ≠ .cFrame) : s.misaddressed = false := by
  simp [State.misaddressed, h]

/-- An F1 frame away from `C_FRAME`: its two bytes are sent, and the observer receives them. -/
theorem frame_f1_of_success (op b : Byte) {s : State} {rest : List Bool} (hf : s.fault = none) (ho : s.busOpen = true)
    (hc : s.ctl ≠ .cFrame) (hr : s.Succeeds 4 rest) :
    frame (.f1 op b) s = { s with
      lvlCs := .driven .high
      enc := .eIdle
      started := true
      encShape := .f1
      encOp := op
      encBuf := [b]
      encIdx := 1
      trace := s.trace ++ [.pin .cs .low, .tx op, .tx b, .pin .cs .high]
      rx := s.rx.receive [op, b]
      rxFrame := none
      results := rest } := by
  rw [frame_of_success (.f1 op b) hf ho (by exact hr), State.misaddressed_of_ne_cFrame hc]
  rfl

/-! ### Bring-up -/

/-- Bring-up is steps 1 to 4, then the two frames. -/
theorem bringUp_eq (s : State) :
    bringUp s = (s.runAll [cfgRow, openRow, enRow, resetPulse]).runAll
      [resetDone, sendDigits, digitsDone, sendBrightness, brightDone] :=
  s.runAll_append [cfgRow, openRow, enRow, resetPulse] _

/-- Steps 1 to 4: pins configured, transport open, enable high, reset pulsed (R82 to R84, R92). -/
theorem bringUp_head_of_success {s : State} {rest : List Bool} (hf : s.fault = none) (hr : s.Succeeds 5 rest) :
    s.runAll [cfgRow, openRow, enRow, resetPulse] = { s with
      ctl := .cReset
      rs := .rsIdle
      started := true
      pinsCfg := true
      busOpen := true
      lvlRst := .driven .high
      lvlEn := .driven .high
      trace := s.trace ++ [.cfgPins, .busOpen s.cfg.clockHz, .pin .en .high, .sleep 2, .pin .rst .low, .sleep 2,
        .pin .rst .high]
      rx := s.rx.forget
      results := rest } := by
  rw [State.runAll_step hf, cfgRow_of_success hf (rest := List.replicate 4 true ++ rest) hr,
    State.runAll_step (by exact hf), openRow_of_success (rest := List.replicate 3 true ++ rest) (by exact hf) rfl,
    State.runAll_step (by exact hf), enRow_of_success (rest := List.replicate 2 true ++ rest) (by exact hf) rfl,
    State.runAll_step (by exact hf), resetPulse_of_success (rest := rest) (by exact hf) rfl]
  simp

/-- Steps 5 and 6, from the end of the reset pulse: the digit-count frame, the brightness frame, and only then Ready
(R85 to R87). -/
theorem bringUp_tail_of_success {s : State} {rest : List Bool} (hf : s.fault = none) (ho : s.busOpen = true)
    (hr : s.Succeeds 8 rest) :
    s.runAll [resetDone, sendDigits, digitsDone, sendBrightness, brightDone] = { s with
      dev := .ready
      ctl := .cIdle
      enc := .eIdle
      started := false
      req := none
      lvlCs := .driven .high
      encShape := .f1
      encOp := opBrightness
      encBuf := [maxBrightness]
      encIdx := 1
      trace := s.trace ++ [.pin .cs .low, .tx opSetDigits, .tx (digitsPayload s.cfg), .pin .cs .high,
        .pin .cs .low, .tx opBrightness, .tx maxBrightness, .pin .cs .high]
      rx := (s.rx.receive [opSetDigits, digitsPayload s.cfg]).receive [opBrightness, maxBrightness]
      rxFrame := none
      results := rest } := by
  rw [State.runAll_step hf, State.runAll_step (by exact hf), sendDigits, initSetDigitsCommand,
    frame_f1_of_success (rest := List.replicate 4 true ++ rest) _ _ (by exact hf) (by exact ho) (by simp [resetDone])
      (by exact hr),
    State.runAll_step (by exact hf), State.runAll_step (by exact hf), sendBrightness, initBrightnessCommand,
    frame_f1_of_success (rest := rest) _ _ (by exact hf) (by exact ho) (by simp [digitsDone]) (by rfl),
    State.runAll_step (by exact hf)]
  simp [resetDone, digitsDone, brightDone, opDone]

/-! ### INIT from its acceptance on -/

/-- INIT in Uninitialized is latched and goes to step 1 (R80, R89). -/
theorem acceptInit_of_uninitialized {s : State} (h : s.dev = .uninitialized) :
    acceptInit s = { s with req := some .init, ctl := .cCfg } := by
  simp [acceptInit, h, latch]

theorem initCall_of_uninitialized {s : State} (hf : s.fault = none) (hd : s.dev = .uninitialized) :
    initCall s = bringUp { s with req := some .init, ctl := .cCfg } := by
  rw [initCall, acceptInit_of_uninitialized hd, State.andThen_of_none (by exact hf), if_pos rfl]

/-- Settles O27: acceptance, then the seven events of steps 1 to 4, then the eight of the two frames; the thirteen answers
are five and eight. -/
theorem initEmitsItsFifteenEvents : Obligations.InitEmitsItsFifteenEvents := by
  intro s rest ⟨hf, hi, hx⟩ hd hr
  obtain ⟨hctl, hrs, henc, hstarted⟩ := s.idle_iff.1 hi
  have taken : exec .init s = .next (initCall s) := request_taken hf hi rfl
  rw [taken, initCall_of_uninitialized hf hd, bringUp_eq,
    bringUp_head_of_success (rest := List.replicate 8 true ++ rest) (by exact hf) (by exact hr),
    bringUp_tail_of_success (rest := rest) (by exact hf) (by rfl) (by rfl)]
  simp [hctl, hrs, henc, hstarted, hx, opSetDigits, opBrightness, maxBrightness, digitsPayload]

end Sys2Proof.Machine

/-! ## Wire commands with at most one payload byte (R116 to R119)

`exec_wire` leaves only the effect on the observer; a payload of another length does not decode, so the frame is undefined
(R122). -/

namespace Sys2Proof.Machine

/-! ### Payloads of another length -/

theorem decodeOne_of_length_ne {make : Byte → Instr} {op : Byte} {payload : List Byte} (h : payload.length ≠ 1) :
    decodeOne make op payload = .error (.payloadLength op payload.length) := by
  match payload, h with
  | [], _ => rfl
  | [_], h => exact absurd rfl h
  | _ :: _ :: _, _ => rfl

theorem decodeBare_of_ne_nil {i : Instr} {op : Byte} {payload : List Byte} (h : payload ≠ []) :
    decodeBare i op payload = .error (.payloadLength op payload.length) := by
  cases payload with
  | nil => exact absurd rfl h
  | cons => rfl

/-- Opcode `0xE0` without exactly one payload byte (R116, R122). -/
theorem Rx.receive_setDigits_of_length_ne {payload : List Byte} (h : payload.length ≠ 1) (rx : Rx) :
    rx.receive (opSetDigits :: payload) = rx.undefined :=
  Rx.receive_of_error (bytes := opSetDigits :: payload)
    (decodeOne_of_length_ne (make := .setDigits) (op := opSetDigits) h) rx

/-- Opcode `0xE4` without exactly one payload byte (R117, R122). -/
theorem Rx.receive_brightness_of_length_ne {payload : List Byte} (h : payload.length ≠ 1) (rx : Rx) :
    rx.receive (opBrightness :: payload) = rx.undefined :=
  Rx.receive_of_error (bytes := opBrightness :: payload)
    (decodeOne_of_length_ne (make := .setBrightnessCmd) (op := opBrightness) h) rx

/-- Opcode `0xE9` with a payload (R118, R122). -/
theorem Rx.receive_lampTest_of_ne_nil {payload : List Byte} (h : payload ≠ []) (rx : Rx) :
    rx.receive (opLampTest :: payload) = rx.undefined :=
  Rx.receive_of_error (bytes := opLampTest :: payload)
    (decodeBare_of_ne_nil (i := .lampTest) (op := opLampTest) h) rx

/-- Opcode `0xE8` with a payload (R119, R122). -/
theorem Rx.receive_normal_of_ne_nil {payload : List Byte} (h : payload ≠ []) (rx : Rx) :
    rx.receive (opNormal :: payload) = rx.undefined :=
  Rx.receive_of_error (bytes := opNormal :: payload)
    (decodeBare_of_ne_nil (i := .normal) (op := opNormal) h) rx

/-! ### Effects -/

theorem Rx.setDigits_of_le {rx : Rx} (hu : rx.undef = false) {n : Byte} (hn : n.toNat ≤ 0x0F) :
    rx.setDigits n = { rx with digits := some (n.toNat + 1) } := by
  rw [Rx.setDigits, Rx.whileDefined_of_defined hu, if_pos hn]

/-- A payload byte above `0x0F` is undefined, whatever came before. -/
theorem Rx.setDigits_of_gt {n : Byte} (hn : 0x0F < n.toNat) (rx : Rx) : rx.setDigits n = rx.undefined := by
  cases hu : rx.undef with
  | false => rw [Rx.setDigits, Rx.whileDefined_of_defined hu, if_neg (Nat.not_le.2 hn)]
  | true => exact Rx.whileDefined_of_undef hu _

theorem Rx.setBrightness_of_defined {rx : Rx} (hu : rx.undef = false) (v : Byte) :
    rx.setBrightness v = { rx with bright := some v } :=
  Rx.whileDefined_of_defined hu _

theorem Rx.lampTest_of_defined {rx : Rx} (hu : rx.undef = false) : rx.lampTest = { rx with lamp := some true } :=
  Rx.whileDefined_of_defined hu _

theorem Rx.normal_of_defined {rx : Rx} (hu : rx.undef = false) : rx.normal = { rx with lamp := some false } :=
  Rx.whileDefined_of_defined hu _

/-- Settles O9: the two ranges of the payload byte, and the frames that have not exactly one. -/
theorem setDigitsSetsPayloadPlusOne : Obligations.SetDigitsSetsPayloadPlusOne := by
  intro s n payload
  have effect : exec (.setDigits n) s = .next { s with rx := s.rx.setDigits n } := exec_wire rfl s
  refine ⟨fun hu hn => ?inRange, fun hn => ?outOfRange, fun hl => ?otherLength⟩
  case inRange => rw [effect, Rx.setDigits_of_le hu hn]
  case outOfRange => rw [effect, Rx.setDigits_of_gt hn, Rx.undefined_eq]
  case otherLength => exact s.rx.receive_setDigits_of_length_ne hl

/-- Settles O10: each command's effect on a defined observer, and the frames whose payload length does not fit. -/
theorem brightnessLampAndNormalEffects : Obligations.BrightnessLampAndNormalEffects := by
  refine ⟨fun s hu => ⟨fun v => ?brightness, ?lampTest, ?normal⟩,
    fun rx payload => ⟨fun hl => ?oneByte, fun hp => ?bare⟩⟩
  case brightness => rw [exec_wire rfl, Rx.apply, Rx.setBrightness_of_defined hu]
  case lampTest => rw [exec_wire rfl, Rx.apply, Rx.lampTest_of_defined hu]
  case normal => rw [exec_wire rfl, Rx.apply, Rx.normal_of_defined hu]
  case oneByte => exact rx.receive_brightness_of_length_ne hl
  case bare => exact ⟨rx.receive_lampTest_of_ne_nil hp, rx.receive_normal_of_ne_nil hp⟩

end Sys2Proof.Machine

/-! ## The observer after INIT and CLEAR (R125)

INIT's reset pulse makes the observer forget, and its two frames then tell it the digit count and the brightness. CLEAR is one
cell write of spaces from cell 0, exactly as long as that digit count, so it lies within it. -/

namespace Sys2Proof.Machine

/-! ### INIT -/

/-- A well-formed Configuration has 1 to 16 digits (R131). -/
theorem digits_bounds_of_wf {c : Configuration} (h : c.wf = true) : 1 ≤ c.digits.toNat ∧ c.digits.toNat ≤ 16 := by
  simp only [Configuration.wf, Bool.and_eq_true, decide_eq_true_eq] at h
  obtain ⟨⟨hdigits, -⟩, -⟩ := h
  exact hdigits

/-- The digit-count payload of a well-formed Configuration stands for its digit count: nothing is borrowed (R60, R131). -/
theorem toNat_digitsPayload {c : Configuration} (h : c.wf = true) : (digitsPayload c).toNat + 1 = c.digits.toNat := by
  obtain ⟨hpos, -⟩ := digits_bounds_of_wf h
  have noBorrow : 1#8 ≤ c.digits := hpos
  rw [digitsPayload, BitVec.toNat_sub_of_le noBorrow]
  exact Nat.sub_add_cancel hpos

/-- Where a successful INIT leaves the block: ready for a display operation, the observer told by two frames (R90). -/
theorem exec_init_of_success {s t : State} {rest : List Bool} (ha : s.Accepting) (hd : s.dev = .uninitialized)
    (hr : s.Succeeds 13 rest) (h : exec .init s = .next t) :
    t.Accepting ∧ t.Operational ∧ t.cfg = s.cfg ∧ t.results = rest ∧
    t.rx = (s.rx.forget.receive [opSetDigits, digitsPayload s.cfg]).receive [opBrightness, maxBrightness] := by
  rw [initEmitsItsFifteenEvents s rest ha hd hr] at h
  cases h
  exact ⟨ha, ⟨rfl, rfl⟩, rfl, rfl, rfl⟩

/-- The observer of a well-formed block after the reset pulse and the two frames of INIT. -/
theorem Rx.receive_initFrames {c : Configuration} (hw : c.wf = true) {rx : Rx} (hu : rx.undef = false) :
    (rx.forget.receive [opSetDigits, digitsPayload c]).receive [opBrightness, maxBrightness] =
      { Rx.initial with digits := some c.digits.toNat, bright := some maxBrightness } := by
  have hn := toNat_digitsPayload hw
  obtain ⟨-, hd⟩ := digits_bounds_of_wf hw
  have digits : rx.forget.receive [opSetDigits, digitsPayload c] =
      { Rx.initial with digits := some c.digits.toNat } := by
    rw [Rx.receive_setDigits, Rx.setDigits_of_le (by exact hu) (by omega), hn, Rx.forget_eq, hu]
    rfl
  rw [digits, Rx.receive_brightness, Rx.setBrightness_of_defined rfl]

/-! ### CLEAR -/

/-- Spaces are not the terminator, so none of them is dropped (R67, R108). -/
theorem untilZero_blanks (c : Configuration) : untilZero (blanks c) = blanks c := by
  have notZero : ∀ b ∈ blanks c, (b != terminator) = true := by
    intro b hb
    rw [List.eq_of_mem_replicate hb]
    decide
  exact List.takeWhile_eq_self_iff.2 notZero

theorem bytes_clearCommand (c : Configuration) : (clearCommand c).bytes = opCell :: blanks c := by
  rw [clearCommand, Command.bytes, untilZero_blanks]

/-- CLEAR whose calls all succeed is, to the observer, one cell write of spaces from cell 0. -/
theorem exec_clear_rx_of_success {s u : State} {rest : List Bool} (ha : s.Accepting) (ho : s.Operational)
    (hr : s.Succeeds (3 + s.cfg.digits.toNat) rest) (h : exec .clear s = .next u) :
    u.rx = s.rx.cellWrite 0#4 (blanks s.cfg) := by
  obtain ⟨hf, hi, hx⟩ := ha
  obtain ⟨hd, hb⟩ := ho
  have count : 2 + (clearCommand s.cfg).bytes.length = 3 + s.cfg.digits.toNat := by
    rw [bytes_clearCommand, List.length_cons, blanks, List.length_replicate]
    omega
  have run : exec .clear s = .next _ :=
    displayOp_single_of_success .clear (clearCommand s.cfg) (rest := rest) hf hi hx hd hb rfl (by rw [count]; exact hr)
  rw [run] at h
  cases h
  rw [bytes_clearCommand]
  exact Rx.receive_cell 0#4 (blanks s.cfg) s.rx

/-- A cell write within the known digit count leaves each of its codes in its cell (R114). -/
theorem Rx.cellAt_cellWrite_within {rx : Rx} {p : Nibble} {codes : List Byte} {d : Nat} (hu : rx.undef = false)
    (hd : rx.digits = some d) (h16 : d ≤ 16) (hp : p.toNat < d) (hk : p.toNat + codes.length ≤ d) {j : Nat}
    (hj : j < codes.length) : (rx.cellWrite p codes).cellAt (p.toNat + j) = codes[j]? := by
  rw [Rx.cellWrite_within hu hd hp hk, Rx.cellAt, writeRun_at codes _ _ _ (by omega) hj]
  rfl

/-- Spaces over the whole known digit count (R114, R125). -/
theorem Rx.cellWrite_blanks {c : Configuration} (hw : c.wf = true) {rx : Rx} (hu : rx.undef = false)
    (hd : rx.digits = some c.digits.toNat) :
    (∀ p, p < c.digits.toNat → (rx.cellWrite 0#4 (blanks c)).cellAt p = some blankCode) ∧
    (rx.cellWrite 0#4 (blanks c)).undef = false := by
  obtain ⟨hpos, h16⟩ := digits_bounds_of_wf hw
  have fits : (0#4).toNat + (blanks c).length ≤ c.digits.toNat := by simp [blanks]
  refine ⟨fun p hp => ?_, ?_⟩
  · have cell := Rx.cellAt_cellWrite_within (p := 0#4) (j := p) hu hd h16 hpos fits (by simpa [blanks] using hp)
    simpa [blanks, hp] using cell
  · rw [Rx.cellWrite_within (p := 0#4) hu hd hpos fits]
    exact hu

/-- Settles O29: INIT's two frames tell the observer the digit count and the brightness; the answers left after its thirteen
are those CLEAR needs to write its spaces. -/
theorem observerAfterInitAndClear : Obligations.ObserverAfterInitAndClear := by
  intro s t u rest ha hd hw hu hr hinit hclear
  have answers : s.Succeeds 13 (List.replicate (3 + s.cfg.digits.toNat) true ++ rest) := by
    rw [State.Succeeds, ← List.append_assoc, List.replicate_append_replicate]
    exact hr
  obtain ⟨accepting, operational, hcfg, hresults, hrx⟩ := exec_init_of_success ha hd answers hinit
  rw [Rx.receive_initFrames hw hu] at hrx
  have cleared := exec_clear_rx_of_success accepting operational (by rw [hcfg]; exact hresults) hclear
  rw [hcfg] at cleared
  rw [cleared]
  exact ⟨hrx, Rx.cellWrite_blanks hw (by rw [hrx]; rfl) (by rw [hrx])⟩

end Sys2Proof.Machine

/-! ## Construction (R131)

Well-formedness as checked is R131's condition, and construction is decided by nothing else. -/

namespace Sys2Proof.Machine

/-- A Configuration is well formed exactly as R131 says. -/
theorem Configuration.wf_iff (c : Configuration) :
    c.wf = true ↔ (1 ≤ c.digits.toNat ∧ c.digits.toNat ≤ 16) ∧ c.pins.Nodup ∧ 0 < c.clockHz := by
  simp only [Configuration.wf, Bool.and_eq_true, decide_eq_true_eq, and_assoc]

theorem construct_of_wf {c : Configuration} (h : c.wf = true) : construct c = .next (State.initial c [] []) := if_pos h

theorem construct_of_not_wf {c : Configuration} (h : ¬ c.wf = true) : construct c = .refused .badConfig := if_neg h

/-- Settles O2: construction checks `wf`, and the block it gives holds the Configuration it was given. -/
theorem constructionRefusesIllFormedConfigurations : Obligations.ConstructionRefusesIllFormedConfigurations := by
  intro c
  refine ⟨fun h => ?wellFormed, fun h => ?illFormed⟩
  case wellFormed => exact ⟨_, construct_of_wf ((Configuration.wf_iff c).2 h), rfl⟩
  case illFormed => exact construct_of_not_wf fun hw => h ((Configuration.wf_iff c).1 hw)

end Sys2Proof.Machine

/-! ## The halted block (R139, R157)

A step, a request and a step of bring-up all look at the recorded fault first. -/

namespace Sys2Proof.Machine

theorem step_of_halted {s : State} {f : FaultRecord} (h : s.fault = some f) : step s = .fault (.halted f) := by
  rw [step, blockStep, h]

theorem request_of_halted {s : State} {f : FaultRecord} (h : s.fault = some f) (r : Request) (taken : State → State) :
    request r taken s = .fault (.halted f) := by
  rw [request, h]

theorem displayOp_of_halted {s : State} {f : FaultRecord} (h : s.fault = some f) (r : Request)
    (parts : List (State → State)) : displayOp r parts s = .fault (.halted f) :=
  request_of_halted h r _

theorem atItsStep_of_halted {s : State} {f : FaultRecord} (h : s.fault = some f) (c : Ctl) (effect : State → State) :
    atItsStep c effect s = .fault (.halted f) := by
  rw [atItsStep, h]

/-- Every host operation and every step of bring-up answers with the recorded fault. -/
theorem exec_of_halted {s : State} {f : FaultRecord} (h : s.fault = some f) {i : Instr} (hi : i.isWire = false) :
    exec i s = .fault (.halted f) := by
  cases i with
  | init | teardown => exact request_of_halted h _ _
  | writeChar | writeString | loadCustomFont | setBrightness | fullTest | clear => exact displayOp_of_halted h _ _
  | initSetDigits | initBrightness | resetSequence => exact atItsStep_of_halted h _ _
  | cellWrite | glyphWrite | setDigits | setBrightnessCmd | normal | lampTest => cases hi

/-- Settles O37: steps and host operations answer `halted`, and a final state has no fault. -/
theorem haltedBlockTakesNoStep : Obligations.HaltedBlockTakesNoStep := by
  intro s hs
  obtain ⟨f, hf⟩ := Option.ne_none_iff_exists'.1 hs
  refine ⟨fun t h => ?step, fun ⟨noFault, _⟩ => hs noFault, fun i t hi h => ?exec⟩
  case step => rw [step_of_halted hf] at h; cases h
  case exec => rw [exec_of_halted hf hi] at h; cases h

end Sys2Proof.Machine

/-! ## Requests before `init()` and after `teardown()` (R128, R129)

Acceptance itself raises the fault, so no later part of the operation runs: nothing is emitted. The block accepts only with its
sub-sequencers at rest and no frame in progress, so the position recorded is `C_IDLE` and the observer is left as it is. -/

namespace Sys2Proof.Machine

/-- A fault raised by acceptance writes the request, the record and `ctl`, and nothing else (R133, R137). -/
theorem State.raise_of_accepting {s : State} (ha : s.Accepting) (r : Request) (k : FaultKind) :
    ({ s with req := some r } : State).raise k = { s with
      req := some r
      fault := some ⟨k, some r, .controller .cIdle⟩
      ctl := .cHalt } := by
  obtain ⟨-, hi, hx⟩ := ha
  obtain ⟨hctl, hrs, henc, -⟩ := s.idle_iff.1 hi
  simp [State.raise, State.position, hctl, hrs, henc, hx]

/-- A display operation that faults at its acceptance ends there. -/
theorem displayOp_of_accept_fault {r : Request} {s : State} {k : FaultKind} (ha : s.Accepting) (hw : r.wf = true)
    (h : acceptDisplay r s = ({ s with req := some r } : State).raise k) (parts : List (State → State)) :
    displayOp r parts s = .next (({ s with req := some r } : State).raise k) := by
  obtain ⟨hf, hi, -⟩ := ha
  rw [displayOp, request_taken hf hi hw, List.append_assoc, List.singleton_append, State.runAll_step hf, h,
    State.runAll_of_some (State.raise_fault k _)]

/-- INIT after teardown faults at its acceptance and ends there (R129). -/
theorem initCall_of_destroyed {s : State} (hd : s.dev = .destroyed) :
    initCall s = ({ s with req := some .init } : State).raise .useAfterTeardown := by
  have faults : acceptInit s = ({ s with req := some .init } : State).raise .useAfterTeardown := by
    simp [acceptInit, hd, latch]
  rw [initCall, faults, State.andThen_of_some (State.raise_fault _ _)]

/-- Settles O21: the acceptance of a display operation raises NotReady in Uninitialized, and the operation ends there. -/
theorem displayOperationBeforeInitRaisesNotReady : Obligations.DisplayOperationBeforeInitRaisesNotReady := by
  intro s r ha hd hr hw
  obtain ⟨parts, asDisplayOp⟩ := exec_display hr s
  rw [asDisplayOp, displayOp_of_accept_fault ha hw (acceptDisplay_of_uninitialized hd r), State.raise_of_accepting ha]

/-- Settles O22: the operations but TEARDOWN are INIT and the display operations, whose acceptance raises the fault. -/
theorem operationAfterTeardownRaisesUseAfterTeardown : Obligations.OperationAfterTeardownRaisesUseAfterTeardown := by
  intro s r ha hd hr hw
  rw [← State.raise_of_accepting ha]
  cases r with
  | init =>
    obtain ⟨hf, hi, -⟩ := ha
    have taken : exec .init s = .next (initCall s) := request_taken hf hi rfl
    exact taken.trans (congrArg _ (initCall_of_destroyed hd))
  | teardown => exact absurd rfl hr
  | writeChar | writeString | loadCustomFont | setBrightness | fullTest | clear =>
    exact displayOp_of_accept_fault ha hw (acceptDisplay_of_destroyed hd _) _

end Sys2Proof.Machine

/-! ## Registers the encoder's position does not read (R151)

The encoder registers are read by the encoder's own rows alone, and each of these reads only registers that `withoutUnread`
keeps at its position. So every row gives the same from a state and from its `withoutUnread`, but for registers which the next
position does not read either: an update of the block is shown once not to depend on them, and the rows are built from such
updates. -/

namespace Sys2Proof.Machine

/-! ### What `withoutUnread` keeps -/

@[simp] theorem State.withoutUnread_cfg (s : State) : s.withoutUnread.cfg = s.cfg := by
  unfold State.withoutUnread; split <;> rfl
@[simp] theorem State.withoutUnread_dev (s : State) : s.withoutUnread.dev = s.dev := by
  unfold State.withoutUnread; split <;> rfl
@[simp] theorem State.withoutUnread_ctl (s : State) : s.withoutUnread.ctl = s.ctl := by
  unfold State.withoutUnread; split <;> rfl
@[simp] theorem State.withoutUnread_rs (s : State) : s.withoutUnread.rs = s.rs := by
  unfold State.withoutUnread; split <;> rfl
@[simp] theorem State.withoutUnread_enc (s : State) : s.withoutUnread.enc = s.enc := by
  unfold State.withoutUnread; split <;> rfl
@[simp] theorem State.withoutUnread_started (s : State) : s.withoutUnread.started = s.started := by
  unfold State.withoutUnread; split <;> rfl
@[simp] theorem State.withoutUnread_req (s : State) : s.withoutUnread.req = s.req := by
  unfold State.withoutUnread; split <;> rfl
@[simp] theorem State.withoutUnread_busOpen (s : State) : s.withoutUnread.busOpen = s.busOpen := by
  unfold State.withoutUnread; split <;> rfl
@[simp] theorem State.withoutUnread_fault (s : State) : s.withoutUnread.fault = s.fault := by
  unfold State.withoutUnread; split <;> rfl
@[simp] theorem State.withoutUnread_calls (s : State) : s.withoutUnread.calls = s.calls := by
  unfold State.withoutUnread; split <;> rfl
@[simp] theorem State.withoutUnread_results (s : State) : s.withoutUnread.results = s.results := by
  unfold State.withoutUnread; split <;> rfl
@[simp] theorem State.withoutUnread_drawn (s : State) : s.withoutUnread.drawn = s.drawn := by
  unfold State.withoutUnread; split <;> rfl

@[simp] theorem State.withoutUnread_idle (s : State) : s.withoutUnread.idle = s.idle := by
  simp [State.idle, State.subIdle]

@[simp] theorem State.withoutUnread_callResult (s : State) : s.withoutUnread.callResult = s.callResult := by
  simp [State.callResult]

/-- While the opcode is being sent, the opcode register is read. -/
theorem State.withoutUnread_encOp_of_opcode {s : State} (he : s.enc = .eOpcode) : s.withoutUnread.encOp = s.encOp := by
  simp [State.withoutUnread, he]

/-- While the payload is being sent, every register is read. -/
theorem State.withoutUnread_of_payload {s : State} (he : s.enc = .ePayload) : s.withoutUnread = s := by
  simp [State.withoutUnread, he]

/-! ### Updates that do not depend on unread registers -/

/-- What `f` gives depends on no register which the encoder's position does not read, but for registers which the position
reached does not read either. -/
def BlindToUnread (f : State → State) : Prop := ∀ s, (f s.withoutUnread).withoutUnread = (f s).withoutUnread

/-- `s` with the encoder's registers set to these values. -/
def State.withRegisters (shape : Shape) (op : Byte) (buf : List Byte) (idx : Nat) (s : State) : State :=
  { s with encShape := shape, encOp := op, encBuf := buf, encIdx := idx }

theorem State.withoutUnread_of_idle {s : State} (he : s.enc = .eIdle) :
    s.withoutUnread = s.withRegisters .f0 0x00#8 [] 0 := by
  simp [withoutUnread, withRegisters, he]

/-- Where `withoutUnread` clears the index alone. -/
theorem State.withoutUnread_of_index {s : State} (he : s.enc = .eAssert ∨ s.enc = .eOpcode ∨ s.enc = .eRelease) :
    s.withoutUnread = s.withRegisters s.encShape s.encOp s.encBuf 0 := by
  rcases he with he | he | he <;> simp [withoutUnread, withRegisters, he]

/-- An update which neither reads nor writes the encoder's registers and leaves the encoder where it is; of an update written
without a case split both hold by definition. -/
theorem BlindToUnread.of_commutes {f : State → State} (henc : ∀ s, (f s).enc = s.enc := by exact fun _ => rfl)
    (h : ∀ s shape op buf idx, f (s.withRegisters shape op buf idx) = (f s).withRegisters shape op buf idx := by
      exact fun _ _ _ _ _ => rfl) : BlindToUnread f := by
  intro s
  have own : f s = (f s).withRegisters s.encShape s.encOp s.encBuf s.encIdx := h s _ _ _ _
  have index (he : s.enc = .eAssert ∨ s.enc = .eOpcode ∨ s.enc = .eRelease) :
      (f s.withoutUnread).withoutUnread = (f s).withoutUnread := by
    have he' : (f s).enc = .eAssert ∨ (f s).enc = .eOpcode ∨ (f s).enc = .eRelease := by rwa [henc]
    rw [State.withoutUnread_of_index he, h, State.withoutUnread_of_index he', own,
      State.withoutUnread_of_index (by exact he')]
    rfl
  cases he : s.enc with
  | eIdle =>
    have he' : (f s).enc = .eIdle := by rw [henc, he]
    rw [State.withoutUnread_of_idle he, h, State.withoutUnread_of_idle he', State.withoutUnread_of_idle (by exact he')]
    rfl
  | ePayload => rw [State.withoutUnread_of_payload he]
  | eAssert => exact index (.inl he)
  | eOpcode => exact index (.inr (.inl he))
  | eRelease => exact index (.inr (.inr he))

/-- What follows such an update sees no unread register either. -/
theorem BlindToUnread.comp {f g : State → State} (hg : BlindToUnread g) (hf : BlindToUnread f) :
    BlindToUnread fun s => g (f s) := by
  intro s
  rw [← hg (f s.withoutUnread), hf, hg]

theorem blind_id : BlindToUnread fun s => s := .of_commutes

/-- Whether the run goes on is decided by the fault alone, so `g` has to be blind only where `f` leaves the encoder. -/
theorem andThen_withoutUnread {f g : State → State} (hf : BlindToUnread f) {s : State}
    (hg : ∀ t, t.enc = (f s).enc → (g t.withoutUnread).withoutUnread = (g t).withoutUnread) :
    ((f s.withoutUnread).andThen g).withoutUnread = ((f s).andThen g).withoutUnread := by
  have hfs := hf s
  have fault : (f s.withoutUnread).fault = (f s).fault := by simpa using congrArg State.fault hfs
  have enc : (f s.withoutUnread).enc = (f s).enc := by simpa using congrArg State.enc hfs
  cases hk : (f s).fault with
  | some r => rw [State.andThen_of_some hk, State.andThen_of_some (fault.trans hk), hfs]
  | none => rw [State.andThen_of_none hk, State.andThen_of_none (fault.trans hk), ← hg _ enc, hfs, hg _ rfl]

theorem BlindToUnread.andThen {f g : State → State} (hf : BlindToUnread f) (hg : BlindToUnread g) :
    BlindToUnread fun s => (f s).andThen g :=
  fun _ => andThen_withoutUnread hf fun t _ => hg t

theorem BlindToUnread.ite {c : State → Prop} [DecidablePred c] (hc : ∀ s, c s.withoutUnread ↔ c s)
    {f g : State → State} (hf : BlindToUnread f) (hg : BlindToUnread g) : BlindToUnread fun s => if c s then f s else g s := by
  intro s
  by_cases h : c s
  · simpa [hc, h] using hf s
  · simpa [hc, h] using hg s

/-! ### The operations of the block -/

theorem blind_emit (e : Event) : BlindToUnread (State.emit e) := .of_commutes

theorem blind_raise (k : FaultKind) : BlindToUnread (State.raise k) := .of_commutes

theorem blind_setLevel (p : Pin) (lv : Level) : BlindToUnread (State.setLevel p lv) :=
  .of_commutes (State.setLevel_enc p lv) fun _ _ _ _ _ => by cases p <;> rfl

theorem blind_takeResult : BlindToUnread State.takeResult := by
  refine .of_commutes State.takeResult_enc fun s _ _ _ _ => ?_
  cases hr : s.results <;> simp only [State.takeResult, State.withRegisters, hr]

theorem blind_deliver : BlindToUnread State.deliver := by
  refine .of_commutes State.deliver_enc fun s _ _ _ _ => ?_
  cases hx : s.rxFrame <;> simp only [State.deliver, State.withRegisters, State.misaddressed, hx]

theorem BlindToUnread.attempt {f g : State → State} (hf : BlindToUnread f) (hg : BlindToUnread g) :
    BlindToUnread fun s => s.attempt f g :=
  .ite (fun s => by simp) (hf.comp blind_takeResult) (hg.comp blind_takeResult)

theorem blind_setPin (p : Pin) (d : Drive) : BlindToUnread (State.setPin p d) :=
  .attempt ((blind_emit _).comp (blind_setLevel p _)) ((blind_raise _).comp (blind_setLevel p _))

theorem blind_tx (b : Byte) : BlindToUnread (State.tx b) :=
  .ite (fun s => by simp) (.attempt (blind_emit _) (blind_raise _)) (blind_raise _)

theorem blind_cfgPins : BlindToUnread State.cfgPins :=
  .attempt .of_commutes (blind_raise _)

theorem blind_closeBus : BlindToUnread State.closeBus :=
  .ite (fun s => by simp) .of_commutes blind_id

theorem blind_openBus : BlindToUnread State.openBus :=
  .attempt .of_commutes (blind_raise _)

/-- A row that only moves the controller. -/
theorem blind_setCtl (c : Ctl) : BlindToUnread fun s => { s with ctl := c } := .of_commutes

/-- A row that only moves the Reset Sequencer. -/
theorem blind_setRs (r : Rs) : BlindToUnread fun s => { s with rs := r } := .of_commutes

/-! ### Rows of the controller and the Reset Sequencer -/

theorem blind_cfgRow : BlindToUnread cfgRow := blind_cfgPins.andThen (blind_setCtl _)

theorem blind_openRow : BlindToUnread openRow := blind_openBus.andThen (blind_setCtl _)

theorem blind_enRow : BlindToUnread enRow := (blind_setPin _ _).andThen (blind_setCtl _)

theorem blind_startReset : BlindToUnread startReset := .of_commutes

theorem blind_resetDone : BlindToUnread resetDone := .of_commutes

theorem blind_digitsDone : BlindToUnread digitsDone := .of_commutes

theorem blind_brightDone : BlindToUnread brightDone := .of_commutes

theorem blind_firstFrameDone : BlindToUnread firstFrameDone := .of_commutes

theorem blind_opDone : BlindToUnread opDone := .of_commutes

theorem blind_waitRow (ms : Nat) : BlindToUnread (waitRow ms) := .of_commutes

theorem blind_rsPreRow : BlindToUnread rsPreRow := .of_commutes

theorem blind_rsAssertRow : BlindToUnread rsAssertRow := (blind_setPin _ _).andThen (blind_setRs _)

theorem blind_rsHoldRow : BlindToUnread rsHoldRow := .of_commutes

theorem blind_rsReleaseRow : BlindToUnread rsReleaseRow := (blind_setPin _ _).andThen (blind_setRs _)

/-- Starting the encoder writes every register but the index, which `E_ASSERT` does not read. -/
theorem blind_startEncoder (c : Command) : BlindToUnread (startEncoder c) := by
  intro s
  cases he : s.enc <;> simp [State.withoutUnread, startEncoder, he]

theorem blind_latch (r : Request) : BlindToUnread (latch r) := .of_commutes

theorem blind_acceptDisplay (r : Request) : BlindToUnread (acceptDisplay r) := by
  intro s
  unfold acceptDisplay
  rw [State.withoutUnread_dev]
  split
  · exact (blind_raise _).comp (blind_latch r) s
  · exact (blind_raise _).comp (blind_latch r) s
  · exact (blind_setCtl _).comp (blind_latch r) s

theorem blind_acceptInit : BlindToUnread acceptInit := by
  intro s
  unfold acceptInit
  rw [State.withoutUnread_dev]
  split
  · exact (blind_raise _).comp (blind_latch .init) s
  · exact blind_id s
  · exact (blind_setCtl _).comp (blind_latch .init) s

theorem blind_acceptTeardown : BlindToUnread acceptTeardown :=
  have destroyed : BlindToUnread fun s : State => { s with dev := .destroyed } := .of_commutes
  destroyed.comp blind_closeBus

theorem blind_accept (r : Request) : BlindToUnread (accept r) := by
  cases r with
  | init => exact blind_acceptInit
  | teardown => exact blind_acceptTeardown
  | writeChar | writeString | loadCustomFont | setBrightness | fullTest | clear => exact blind_acceptDisplay _

/-! ### Rows of the encoder -/

theorem blind_encRelease : BlindToUnread encRelease := by
  have idle : BlindToUnread fun s : State => { s with enc := .eIdle } := by
    intro s
    cases he : s.enc <;> simp [State.withoutUnread, he]
  exact ((blind_setPin .cs .high).andThen idle).andThen blind_deliver

theorem setPin_enc (p : Pin) (d : Drive) (s : State) : (s.setPin p d).enc = s.enc := by
  rcases s.setPin_cases p d with e | e <;> simp [e]

theorem tx_enc (b : Byte) (s : State) : (s.tx b).enc = s.enc := by
  rcases s.tx_cases b with e | e | e <;> simp [e]

/-- At `E_ASSERT` and after it the index is not read. -/
theorem encAssert_withoutUnread {s : State} (he : s.enc = .eAssert) :
    (encAssert s.withoutUnread).withoutUnread = (encAssert s).withoutUnread := by
  refine andThen_withoutUnread (blind_setPin .cs .low) fun t ht => ?_
  have ht : t.enc = .eAssert := by rw [ht, setPin_enc, he]
  simp [State.withoutUnread, ht]

/-- At `E_OPCODE` the index is not read; after it, it is zero or not read. -/
theorem encOpcode_withoutUnread {s : State} (he : s.enc = .eOpcode) :
    (encOpcode s.withoutUnread).withoutUnread = (encOpcode s).withoutUnread := by
  rw [encOpcode, State.withoutUnread_encOp_of_opcode he]
  refine andThen_withoutUnread (blind_tx s.encOp) fun t ht => ?_
  have ht : t.enc = .eOpcode := by rw [ht, tx_enc, he]
  cases hs : t.encShape <;> simp [State.withoutUnread, afterOpcode, ht, hs]

/-! ### Steps -/

/-- An outcome without the registers its state does not read. -/
def outcomeWithoutUnread : Host.Outcome State Fault Refusal → Host.Outcome State Fault Refusal
  | .next s => .next s.withoutUnread
  | .fault f => .fault f
  | .refused r => .refused r

/-- What `F` answers depends on no register which the encoder's position does not read. -/
def AnswersBlind (F : State → Host.Outcome State Fault Refusal) : Prop :=
  ∀ s, outcomeWithoutUnread (F s.withoutUnread) = outcomeWithoutUnread (F s)

theorem outcomeWithoutUnread_next {s t : State} (h : s.withoutUnread = t.withoutUnread) :
    outcomeWithoutUnread (.next s) = outcomeWithoutUnread (.next t) :=
  congrArg Host.Outcome.next h

theorem BlindToUnread.answers {f : State → State} (hf : BlindToUnread f) : AnswersBlind fun s => .next (f s) :=
  fun s => outcomeWithoutUnread_next (hf s)

theorem AnswersBlind.comp {F : State → Host.Outcome State Fault Refusal} {f : State → State} (hF : AnswersBlind F)
    (hf : BlindToUnread f) : AnswersBlind fun s => F (f s) := by
  intro s
  rw [← hF (f s.withoutUnread), hf, hF]

theorem BlindToUnread.request {f : State → State} (hf : BlindToUnread f) (r : Request) : AnswersBlind (request r f) := by
  intro s
  unfold Machine.request
  rw [State.withoutUnread_fault, State.withoutUnread_idle]
  split
  · rfl
  · split
    · split
      · exact hf.answers s
      · rfl
    · rfl

theorem answersBlind_fetchRequest : AnswersBlind fetchRequest := by
  intro s
  unfold fetchRequest
  rw [State.withoutUnread_calls]
  split
  · next r rest _ =>
    have fetched : BlindToUnread fun s : State => { s with calls := rest } := .of_commutes
    exact ((blind_accept r).request r).comp fetched s
  · exact blind_id.answers s

theorem answersBlind_startFirstFrame : AnswersBlind startFirstFrame := by
  intro s
  unfold startFirstFrame
  rw [State.withoutUnread_req, State.withoutUnread_cfg]
  split
  · split
    · exact (blind_startEncoder _).answers s
    · rfl
  · rfl

theorem answersBlind_endFirstFrame : AnswersBlind endFirstFrame := by
  intro s
  unfold endFirstFrame
  rw [State.withoutUnread_req]
  split
  · exact blind_firstFrameDone.answers s
  iterate 5 exact blind_opDone.answers s
  all_goals rfl

theorem answersBlind_waitStep : AnswersBlind waitStep := by
  intro s
  unfold waitStep
  rw [State.withoutUnread_req]
  split
  · exact (blind_waitRow _).answers s
  · rfl

theorem answersBlind_controllerStep : AnswersBlind controllerStep := by
  intro s
  unfold controllerStep
  rw [State.withoutUnread_ctl, State.withoutUnread_started, State.withoutUnread_cfg]
  split
  · exact answersBlind_fetchRequest s
  · exact blind_cfgRow.answers s
  · exact blind_openRow.answers s
  · exact blind_enRow.answers s
  · exact blind_startReset.answers s
  · exact blind_resetDone.answers s
  · exact (blind_startEncoder _).answers s
  · exact blind_digitsDone.answers s
  · exact (blind_startEncoder _).answers s
  · exact blind_brightDone.answers s
  · exact answersBlind_startFirstFrame s
  · exact answersBlind_endFirstFrame s
  · exact answersBlind_waitStep s
  · exact (blind_startEncoder _).answers s
  · exact blind_opDone.answers s
  · rfl

theorem answersBlind_resetStep : AnswersBlind resetStep := by
  intro s
  unfold resetStep
  rw [State.withoutUnread_rs]
  split
  · rfl
  · exact blind_rsPreRow.answers s
  · exact blind_rsAssertRow.answers s
  · exact blind_rsHoldRow.answers s
  · exact blind_rsReleaseRow.answers s

theorem answersBlind_encoderStep : AnswersBlind encoderStep := by
  intro s
  unfold encoderStep
  rw [State.withoutUnread_enc]
  split
  · rfl
  · next he => exact outcomeWithoutUnread_next (encAssert_withoutUnread he)
  · next he => exact outcomeWithoutUnread_next (encOpcode_withoutUnread he)
  · next he => rw [State.withoutUnread_of_payload he]
  · rw [releaseStep_eq, releaseStep_eq]
    exact blind_encRelease.answers s

theorem answersBlind_step : AnswersBlind step := by
  intro s
  unfold step blockStep sequencerStep
  rw [State.withoutUnread_fault, State.withoutUnread_enc, State.withoutUnread_rs]
  split
  · rfl
  · split
    · exact answersBlind_controllerStep s
    · exact answersBlind_resetStep s
    · exact answersBlind_encoderStep s
    · rfl

/-- An outcome that agrees with a next state, but for what is not read, is a next state. -/
theorem next_of_outcomeWithoutUnread {o : Host.Outcome State Fault Refusal} {t : State}
    (h : outcomeWithoutUnread o = outcomeWithoutUnread (.next t)) :
    ∃ u, o = .next u ∧ u.withoutUnread = t.withoutUnread := by
  cases o with
  | next u => exact ⟨u, rfl, Host.Outcome.next.inj h⟩
  | fault | refused => cases h

theorem step_of_withoutUnread_eq {a b t : State} (h : a.withoutUnread = b.withoutUnread) (ha : step a = .next t) :
    ∃ u, step b = .next u ∧ u.withoutUnread = t.withoutUnread := by
  refine next_of_outcomeWithoutUnread ?_
  rw [← ha, ← answersBlind_step a, ← answersBlind_step b, h]

/-! ### Construction -/

/-- Construction gives the initial state of a well-formed Configuration and nothing else (R131). -/
theorem construct_next {c : Configuration} {t : State} (h : construct c = .next t) :
    c.wf = true ∧ t = State.initial c [] [] := by
  by_cases hw : c.wf = true
  case pos => rw [construct_of_wf hw] at h; cases h; exact ⟨hw, rfl⟩
  case neg => rw [construct_of_not_wf hw] at h; cases h

/-- Settles O1: a construction is the initial state of its Configuration, the block at reset is one, and no row of a step
depends on a register its position does not read. -/
theorem resetHoldsConstructionValues : Obligations.ResetHoldsConstructionValues := by
  refine ⟨fun c t h => ?values, ⟨Config.resetConfiguration, construct_of_wf (by decide)⟩,
    fun _ _ _ h ha => step_of_withoutUnread_eq h ha⟩
  case values =>
    obtain ⟨hw, rfl⟩ := construct_next h
    exact ⟨hw, rfl, rfl, rfl, rfl, rfl, rfl, rfl, rfl, rfl, rfl, rfl, rfl, rfl⟩

end Sys2Proof.Machine

/-! ## The decoder and the encoder of wire commands (R56, R62)

What a frame decodes to was told by `decodeFrame_cases`, and that each command decodes from its layout by the `decode_` lemmas;
the two together are the equivalence. -/

namespace Sys2Proof

/-- What a frame decodes to is well formed, and its encoding gives the frame back: no bit of it was dropped. -/
theorem encodeWire_of_decode {bytes : List Byte} {i : Instr} (h : decodeFrame bytes = .ok i) :
    encodeWire i = some bytes ∧ i.wf = true := by
  rcases decodeFrame_cases h with ⟨op, payload, rfl, hop, rfl⟩ | ⟨op, payload, rfl, hop, hlen, rfl⟩ | ⟨n, rfl, rfl⟩ |
    ⟨v, rfl, rfl⟩ | ⟨rfl, rfl⟩ | ⟨rfl, rfl⟩
  · exact ⟨by rw [encodeWire, cell_layout_of_mask op hop], rfl⟩
  · exact ⟨by rw [encodeWire, glyph_layout_of_mask op hop], decide_eq_true hlen⟩
  all_goals exact ⟨rfl, rfl⟩

/-- The encoding of a well-formed wire command decodes to it; a host operation has none. -/
theorem decode_of_encodeWire {bytes : List Byte} {i : Instr} (h : encodeWire i = some bytes) (hw : i.wf = true) :
    decodeFrame bytes = .ok i := by
  cases i with
  | cellWrite p codes => cases h; exact decode_cellWrite p codes
  | glyphWrite i bitmap => cases h; exact decode_glyphWrite i bitmap (of_decide_eq_true hw)
  | setDigits n => cases h; exact decode_setDigits n
  | setBrightnessCmd v => cases h; exact decode_setBrightnessCmd v
  | normal => cases h; exact decode_normal
  | lampTest => cases h; exact decode_lampTest
  | init | initSetDigits | initBrightness | resetSequence | teardown | writeChar | writeString | loadCustomFont
  | setBrightness | fullTest | clear => cases h

/-- Settles O3: the layouts of R56 and the six matches of R62 are inverse to each other. -/
theorem wireDecodeAndEncodeAgree : Obligations.WireDecodeAndEncodeAgree :=
  fun _ _ => ⟨encodeWire_of_decode, fun ⟨h, hw⟩ => decode_of_encodeWire h hw⟩

end Sys2Proof

/-! ## The chip-select discipline of the trace (R75, R76)

The scan of the trace stands where the encoder does. Only the encoder's rows emit an event of the bus, so with the encoder at
rest every event leaves the scan between frames. -/

namespace Sys2Proof.Machine

/-- Where the scan stands for an encoder position and an index: the second clause of `State.DisciplineOk`. -/
def scanAt (scan : CsScan) (idx : Nat) : Enc → Prop
  | .eIdle => scan = .between
  | .eAssert => scan = .between
  | .eOpcode => scan = .inFrame 0
  | .ePayload => scan = .inFrame (idx + 1)
  | .eRelease => ∃ n, scan = .inFrame (n + 1)

theorem csScan_append (trace : List Event) (e : Event) : csScan (trace ++ [e]) = (csScan trace).event e := by
  simp [csScan]

theorem State.DisciplineOk.scan {s : State} (h : s.DisciplineOk) (hf : s.fault = none) :
    scanAt (csScan s.trace) s.encIdx s.enc := by
  have := h.2 hf
  cases he : s.enc <;> simpa only [he, scanAt] using this

/-- A scan that stands at an encoder position is not broken. -/
theorem State.DisciplineOk.of_scan {t : State} (h : scanAt (csScan t.trace) t.encIdx t.enc) : t.DisciplineOk := by
  refine ⟨fun hb => ?_, fun _ => ?_⟩
  · cases he : t.enc <;> simp [scanAt, he, hb] at h
  · cases he : t.enc <;> simpa [scanAt, he] using h

/-- A fault adds no event, and asks nothing of the encoder. -/
theorem State.DisciplineOk.of_fault {s t : State} (h : s.DisciplineOk) (hf : t.fault ≠ none) (ht : t.trace = s.trace) :
    t.DisciplineOk :=
  ⟨ht ▸ h.1, fun h => absurd h hf⟩

theorem Effect.keeps_discipline {s t : State} (hf : s.fault = none) (h : s.DisciplineOk) (he : Effect s t) :
    t.DisciplineOk := by
  have scan := h.scan hf
  cases he with
  | initDestroyed | displayDestroyed | displayNotReady | cfgFails | openFails | enFails | rsAssertFails | rsReleaseFails
  | encAssertFails | txFails | txClosed | encReleaseFails => exact h.of_fault (by simp) (by simp)
  | wait => exact h
  | initReady | initAccepted | teardownClosed | displayAccepted | startReset | resetDone | digitsDone | brightDone
  | testLampDone | frameDone | testDone => exact .of_scan scan
  | startEncoder c hc hs henc => rw [henc] at scan; exact .of_scan scan
  | teardownOpen | cfg | openBus | en | testWait | rsPre | rsAssert | rsHold | rsRelease =>
    have henc := ‹s.enc = .eIdle›
    rw [henc] at scan
    refine .of_scan ?_
    simp [henc, scanAt, csScan_append, show csScan s.trace = .between from scan, CsScan.event]
  | encAssert henc =>
    rw [henc] at scan
    refine .of_scan ?_
    simp [scanAt, csScan_append, show csScan s.trace = .between from scan, CsScan.event]
  | encOpcodeAlone henc | encOpcode henc =>
    rw [henc] at scan
    refine .of_scan ?_
    simp [scanAt, sent, csScan_append, show csScan s.trace = .inFrame 0 from scan, CsScan.event]
  | encSingle b p henc | encNext b henc =>
    rw [henc] at scan
    refine .of_scan ?_
    simp [henc, scanAt, sent, csScan_append, show csScan s.trace = .inFrame (s.encIdx + 1) from scan, CsScan.event]
  | encStop henc =>
    rw [henc] at scan
    exact .of_scan ⟨s.encIdx, scan⟩
  | encRelease henc =>
    rw [henc] at scan
    obtain ⟨n, scan⟩ := scan
    refine .of_scan ?_
    simp [scanAt, csScan_append, scan, CsScan.event]

/-- Settles O51: each effect moves the scan as it moves the encoder. -/
theorem stepKeepsChipSelectDiscipline : Obligations.StepKeepsChipSelectDiscipline := by
  intro s t hd h
  obtain ⟨hf, he⟩ := step_effect h
  exact he.keeps_discipline hf hd

end Sys2Proof.Machine

/-! ## The block's invariant (R24, R26 to R30, R69, R70)

The effects of a step fall into four kinds: a fault, a row of the controller, a row of the Reset Sequencer, and a row of the
encoder. One lemma for each kind says what of the invariant has to be shown there and carries the rest over. -/

namespace Sys2Proof.Machine

/-! ### What a position says -/

theorem State.expectedCommand_congr {s t : State} (hctl : t.ctl = s.ctl) (hreq : t.req = s.req) (hcfg : t.cfg = s.cfg) :
    t.expectedCommand = s.expectedCommand := by
  rw [expectedCommand, expectedCommand, hctl, hreq, hcfg]

/-- A running encoder has been started by the controller. -/
theorem State.PositionOk.started {s : State} (h : s.PositionOk) (he : s.enc ≠ .eIdle) : s.started = true := by
  cases hc : s.ctl <;> simp_all [PositionOk]

/-- The Reset Sequencer runs at `C_RESET` alone, started by the controller. -/
theorem State.PositionOk.atReset {s : State} (h : s.PositionOk) (hr : s.rs ≠ .rsIdle) :
    s.ctl = .cReset ∧ s.started = true := by
  cases hc : s.ctl <;> simp_all [PositionOk]

theorem State.PositionOk.ne_halt {s : State} (h : s.PositionOk) : s.ctl ≠ .cHalt := by
  intro hc
  simp [PositionOk, hc] at h

/-- A position whose command the encoder sends keeps what it says while the encoder moves, once it is started. -/
theorem State.PositionOk.of_encoder {s t : State} {c : Command} (h : s.PositionOk) (hc : s.expectedCommand = some c)
    (k : EncoderKeeps s t) (hctl : t.ctl = s.ctl) (hs : t.started = true) : t.PositionOk := by
  unfold PositionOk at h ⊢
  rw [hctl, k.rs, k.req, k.dev, k.busOpen, hs]
  cases hc' : s.ctl <;> simp_all [expectedCommand]

/-! ### The clauses of the invariant that most rows leave -/

theorem State.EncoderOk.of_idle {t : State} (h : t.enc = .eIdle) : t.EncoderOk := fun he => absurd h he

/-- At rest the observer is in no frame. -/
theorem State.FrameOk.of_idle {s t : State} (h : s.FrameOk) (hx : t.rxFrame = s.rxFrame) (hs : s.enc = .eIdle)
    (ht : t.enc = .eIdle) : t.FrameOk := by
  simp_all [FrameOk]

/-- A fault leaves nothing to show but what it does not touch. -/
theorem State.Inv.raise {s u : State} (h : s.Inv) (hcfg : u.cfg = s.cfg) (hdev : u.dev = s.dev)
    (hpins : u.pinsCfg = s.pinsCfg) (hopen : u.busOpen = s.busOpen) (k : FaultKind) : (u.raise k).Inv where
  cfgWf := by simpa [hcfg] using h.cfgWf
  faultIffHalt := by simp
  openThenConfigured := by simpa [hopen, hpins] using h.openThenConfigured
  readyThenOpen := by simpa [hopen, hdev] using h.readyThenOpen
  destroyedThenClosed := by simpa [hopen, hdev] using h.destroyedThenClosed
  positions := by simp
  encoder := by simp
  frame := by simp [FrameOk]

/-- A row of the controller or of the Reset Sequencer, both of which run while the encoder rests. -/
theorem State.Inv.controllerRow {s t : State} (h : s.Inv) (hs : s.enc = .eIdle) (hcfg : t.cfg = s.cfg)
    (henc : t.enc = .eIdle) (hx : t.rxFrame = s.rxFrame) (hf : t.fault = none)
    (hopen : t.busOpen = true → t.pinsCfg = true) (hready : t.dev = .ready → t.busOpen = true)
    (hdestroyed : t.dev = .destroyed → t.busOpen = false) (hp : t.PositionOk) : t.Inv where
  cfgWf := hcfg ▸ h.cfgWf
  faultIffHalt := iff_of_true hf hp.ne_halt
  openThenConfigured := hopen
  readyThenOpen := hready
  destroyedThenClosed := hdestroyed
  positions := fun _ => hp
  encoder := fun _ => .of_idle henc
  frame := h.frame.of_idle hx hs henc

/-- A row of the encoder, its start included: the registers hold the command of the position. -/
theorem State.Inv.encoderRow {s t : State} {c : Command} (h : s.Inv) (hf : s.fault = none)
    (hc : s.expectedCommand = some c) (k : EncoderKeeps s t) (hctl : t.ctl = s.ctl) (hs : t.started = true)
    (hregisters : t.encShape = c.shape ∧ t.encOp = c.op ∧ t.encBuf = c.payload)
    (hidx : t.enc = .ePayload → t.encShape ≠ .f0 ∧ t.encIdx ≤ t.encBuf.length)
    (hft : t.fault = none) (hframe : t.FrameOk) : t.Inv where
  cfgWf := k.cfg ▸ h.cfgWf
  faultIffHalt := iff_of_true hft (hctl ▸ (h.positions hf).ne_halt)
  openThenConfigured := by rw [k.busOpen, k.pinsCfg]; exact h.openThenConfigured
  readyThenOpen := by rw [k.dev, k.busOpen]; exact h.readyThenOpen
  destroyedThenClosed := by rw [k.dev, k.busOpen]; exact h.destroyedThenClosed
  positions := fun _ => (h.positions hf).of_encoder hc k hctl hs
  encoder := fun _ _ => ⟨⟨c, (State.expectedCommand_congr hctl k.req k.cfg).trans hc, hregisters⟩, hidx⟩
  frame := hframe

/-- A row of the running encoder, whose registers but the index stay as they are. -/
theorem State.Inv.runningRow {s t : State} (h : s.Inv) (hf : s.fault = none) (he : s.enc ≠ .eIdle) (k : EncoderKeeps s t)
    (hctl : t.ctl = s.ctl) (hs : t.started = s.started)
    (hregisters : t.encShape = s.encShape ∧ t.encOp = s.encOp ∧ t.encBuf = s.encBuf)
    (hidx : t.enc = .ePayload → t.encShape ≠ .f0 ∧ t.encIdx ≤ t.encBuf.length)
    (hft : t.fault = none) (hframe : t.FrameOk) : t.Inv := by
  obtain ⟨⟨c, hc, hshape, hop, hbuf⟩, -⟩ := h.encoder hf he
  obtain ⟨hshape', hop', hbuf'⟩ := hregisters
  exact h.encoderRow hf hc k hctl (hs.trans ((h.positions hf).started he))
    ⟨hshape'.trans hshape, hop'.trans hop, hbuf'.trans hbuf⟩ hidx hft hframe

/-! ### The effects -/

theorem Effect.keeps_inv {s t : State} (hf : s.fault = none) (h : s.Inv) (he : Effect s t) : t.Inv := by
  have hp := h.positions hf
  have hframe := h.frame
  have ⟨_, _, hopen, hready, hdestroyed, _, _, _⟩ := h
  cases he with
  | initDestroyed | displayDestroyed | displayNotReady | cfgFails | openFails | enFails | rsAssertFails | rsReleaseFails
  | encAssertFails | txFails | txClosed | encReleaseFails => exact h.raise (by simp) (by simp) (by simp) (by simp) _
  | wait => exact h
  | initReady | initAccepted | teardownOpen | teardownClosed | displayAccepted | cfg | openBus | en | startReset
  | resetDone | digitsDone | brightDone | testLampDone | frameDone | testWait | testDone =>
    simp only [State.PositionOk, ‹s.ctl = _›] at hp
    refine h.controllerRow ‹s.enc = .eIdle› ?_ ?_ ?_ ?_ ?_ ?_ ?_ ?_ <;> simp_all [State.PositionOk]
  | rsPre hr | rsAssert hr | rsHold hr | rsRelease hr =>
    obtain ⟨hc, hs⟩ := hp.atReset (by simp [hr])
    simp only [State.PositionOk, hc] at hp
    refine h.controllerRow ‹s.enc = .eIdle› ?_ ?_ ?_ ?_ ?_ ?_ ?_ ?_ <;> simp_all [State.PositionOk]
  | startEncoder c hc hs henc =>
    refine h.encoderRow hf hc ⟨rfl, rfl, rfl, rfl, rfl, rfl, rfl, rfl, rfl⟩ rfl rfl ⟨rfl, rfl, rfl⟩ (by simp) hf ?_
    simp_all [State.FrameOk]
  | encNext b henc hshape hb =>
    have hidx := (List.getElem?_eq_some_iff.1 hb).1
    refine h.runningRow hf (by simp [henc]) (by constructor <;> simp [sent]) ?_ ?_ ?_ ?_ ?_ ?_ <;>
      simp_all [State.FrameOk, sent]
  | encAssert henc | encOpcodeAlone henc | encOpcode henc | encSingle b p henc | encStop henc | encRelease henc =>
    refine h.runningRow hf (by simp [henc]) (by constructor <;> simp [sent]) ?_ ?_ ?_ ?_ ?_ ?_ <;>
      simp_all [State.FrameOk, sent]

/-- Settles O49: each effect keeps the invariant. -/
theorem stepKeepsTheBlockInvariant : Obligations.StepKeepsTheBlockInvariant := by
  intro s t h hstep
  obtain ⟨hf, he⟩ := step_effect hstep
  exact he.keeps_inv hf h

end Sys2Proof.Machine

/-! ## The observer and the trace (R111 to R113)

A step emits one event, or none, or takes a fault, and each of the three says what becomes of the observer. That the observer is
the one of the trace, or knows nothing (log 29), is then kept because events and a cut move two such observers alike. -/

namespace Sys2Proof.Machine

/-! ### What a step does to the observer -/

/-- The observer of a state. -/
def State.observer (s : State) : Observer := ⟨s.rx, s.rxFrame⟩

/-- The observer after a step that emits `e`: moved by the event, or knowing nothing at the end of a frame that an out-of-range
argument made (R59, log 29). -/
def State.observerAfter (s : State) (e : Event) : Observer :=
  if e = .pin .cs .high ∧ s.rxFrame.isSome = true ∧ s.misaddressed = true then
    ⟨{ Rx.initial with undef := true }, none⟩
  else s.observer.event e

/-- Only the end of a frame asks for the argument behind it. -/
theorem State.observerAfter_of_ne {e : Event} (h : e ≠ .pin .cs .high) (s : State) :
    s.observerAfter e = s.observer.event e := by
  simp [observerAfter, h]

/-- The end of a frame. -/
theorem State.observerAfter_release (s : State) :
    s.observerAfter (.pin .cs .high) =
      ⟨match s.rxFrame with
        | some bytes => s.rx.receiveFrom s.misaddressed bytes
        | none => s.rx, none⟩ := by
  cases hx : s.rxFrame <;> cases hm : s.misaddressed <;>
    simp [observerAfter, observer, Observer.event, hx, hm, Rx.undefined_eq]

/-- A fault cuts the frame in progress short (R113, R122). -/
theorem State.raise_observer (k : FaultKind) (s : State) : (s.raise k).observer = s.observer.cut := by
  cases hx : s.rxFrame <;> simp [observer, Observer.cut, hx]

/-- What the three kinds of step do to the trace and to the observer: one event, no event, or a fault, which emits nothing and
cuts the frame in progress (R27, R31, R130). -/
theorem Effect.observer_cases {s t : State} (hf : s.fault = none) (he : Effect s t) :
    (∃ e, t.trace = s.trace ++ [e] ∧ t.fault = none ∧ t.observer = s.observerAfter e) ∨
    (t.trace = s.trace ∧ t.fault = none ∧ t.observer = s.observer) ∨
    (t.trace = s.trace ∧ t.fault ≠ none ∧ t.observer = s.observer.cut) := by
  cases he with
  | initDestroyed | displayDestroyed | displayNotReady | cfgFails | openFails | enFails | rsAssertFails | rsReleaseFails
  | encAssertFails | txFails | txClosed | encReleaseFails =>
    exact .inr (.inr ⟨by simp, by simp, (State.raise_observer _ _).trans (by simp [State.observer])⟩)
  | wait | initReady | initAccepted | teardownClosed | displayAccepted | startReset | resetDone | digitsDone | brightDone
  | startEncoder | testLampDone | frameDone | testDone | encStop => exact .inr (.inl ⟨rfl, hf, rfl⟩)
  | teardownOpen | cfg | openBus | en | testWait | rsPre | rsAssert | rsHold | rsRelease | encAssert | encOpcodeAlone
  | encOpcode | encSingle | encNext =>
    refine .inl ⟨_, rfl, by simpa [sent] using hf, ?_⟩
    rw [State.observerAfter_of_ne (by simp)]
    simp [State.observer, sent, Observer.event, Rx.onEvent, captureEvent]
  | encRelease => exact .inl ⟨_, rfl, by simpa using hf, s.observerAfter_release.symm⟩

/-! ### Observers that agree -/

/-- `undef` is sticky: no frame tells an observer anything after an undefined one (log 28). -/
theorem Rx.receive_of_undef {rx : Rx} (h : rx.undef = true) (bytes : List Byte) : rx.receive bytes = rx.undefined := by
  cases hd : decodeFrame bytes with
  | ok i => rw [Rx.receive_of_ok hd, Rx.apply_of_undef (decodeFrame_isWire hd) h]
  | error e => exact Rx.receive_of_error hd rx

/-- `a` is `b`, or stands where `b` does and knows nothing (log 29). -/
def Observer.Agrees (a b : Observer) : Prop :=
  a.frame = b.frame ∧ (a.rx = b.rx ∨ a.rx = { Rx.initial with undef := true })

theorem Observer.Agrees.event {a b : Observer} (h : a.Agrees b) (e : Event) : (a.event e).Agrees (b.event e) := by
  obtain ⟨rx, frame⟩ := a
  obtain ⟨rx', frame'⟩ := b
  obtain ⟨rfl, rfl | rfl⟩ := h
  · exact ⟨rfl, .inl rfl⟩
  · by_cases he : e = .pin .cs .high
    · subst he
      cases frame with
      | none => exact ⟨rfl, .inr rfl⟩
      | some bytes => exact ⟨rfl, .inr (Rx.receive_of_undef rfl bytes)⟩
    · cases e with
      | pin p d =>
        cases p with
        | cs =>
          cases d with
          | low => exact ⟨rfl, .inr rfl⟩
          | high => exact absurd rfl he
        | rst | en => cases d <;> exact ⟨rfl, .inr rfl⟩
      | cfgPins | busOpen | busClose | tx | sleep => exact ⟨rfl, .inr rfl⟩

theorem Observer.Agrees.cut {a b : Observer} (h : a.Agrees b) : a.cut.Agrees b.cut := by
  obtain ⟨rx, frame⟩ := a
  obtain ⟨rx', frame'⟩ := b
  obtain ⟨rfl, rfl | rfl⟩ := h
  · exact ⟨rfl, .inl rfl⟩
  · cases frame <;> exact ⟨rfl, .inr rfl⟩

/-- At the end of a frame that an out-of-range argument made, the observer of the state knows nothing. -/
theorem State.observerAfter_agrees {s : State} {o : Observer} (h : s.observer.Agrees o) (e : Event) :
    (s.observerAfter e).Agrees (o.event e) := by
  unfold observerAfter
  split
  · next hm =>
    obtain ⟨rfl, hx, -⟩ := hm
    obtain ⟨hframe, -⟩ := h
    obtain ⟨bytes, hb⟩ := Option.isSome_iff_exists.1 hx
    have hb' : o.frame = some bytes := hframe.symm.trans hb
    exact ⟨by simp [Observer.event, hb'], .inr rfl⟩
  · exact h.event e

/-! ### The observer of the trace -/

theorem State.traceObserver_of_none {s : State} (hf : s.fault = none) : s.traceObserver = Observer.ofTrace s.trace := by
  simp [traceObserver, hf]

theorem State.traceObserver_of_fault {s : State} (hf : s.fault ≠ none) :
    s.traceObserver = (Observer.ofTrace s.trace).cut := by
  simp [traceObserver, Option.isSome_iff_ne_none.2 hf]

theorem Effect.keeps_observer {s t : State} (hf : s.fault = none) (h : s.ObserverOk) (he : Effect s t) : t.ObserverOk := by
  have agrees : s.observer.Agrees (Observer.ofTrace s.trace) := State.traceObserver_of_none hf ▸ h
  show t.observer.Agrees t.traceObserver
  rcases he.observer_cases hf with ⟨e, htrace, hfault, ho⟩ | ⟨htrace, hfault, ho⟩ | ⟨htrace, hfault, ho⟩
  · rw [State.traceObserver_of_none hfault, htrace, Observer.ofTrace_append, ho]
    exact State.observerAfter_agrees agrees e
  · rw [State.traceObserver_of_none hfault, htrace, ho]
    exact agrees
  · rw [State.traceObserver_of_fault hfault, htrace, ho]
    exact agrees.cut

/-- Settles O52: the three kinds of step, each with what it does to the observer. -/
theorem stepKeepsObserverOfTrace : Obligations.StepKeepsObserverOfTrace := by
  refine ⟨fun s t h hstep => ?kept, fun s t e hstep htrace => ?moved, fun s t hstep htrace hfault => ?left⟩
  all_goals obtain ⟨hf, he⟩ := step_effect hstep
  case kept => exact he.keeps_observer hf h
  case moved =>
    rcases he.observer_cases hf with ⟨e', h, -, ho⟩ | ⟨h, -, -⟩ | ⟨h, -, -⟩
    · obtain rfl : e' = e := by simpa using h.symm.trans htrace
      exact ho
    all_goals simp [h] at htrace
  case left =>
    rcases he.observer_cases hf with ⟨e, h, -, -⟩ | ⟨-, -, ho⟩ | ⟨-, h, -⟩
    · simp [h] at htrace
    · exact ⟨congrArg Observer.rx ho, congrArg Observer.frame ho⟩
    · exact absurd hfault h

/-- Settles O44: of the three kinds of step one adds an event to the trace and the others leave it. -/
theorem stepEmitsAtMostOneEvent : Obligations.StepEmitsAtMostOneEvent := by
  intro s t hstep
  obtain ⟨hf, he⟩ := step_effect hstep
  rcases he.observer_cases hf with ⟨e, h, -⟩ | ⟨h, -⟩ | ⟨h, -⟩
  · exact .inr ⟨e, h⟩
  all_goals exact .inl h

end Sys2Proof.Machine

/-! ## The reset pulse (R92, R95, R155, R158)

The pulse is driven by two rows of the Reset Sequencer alone. The encoder runs only at positions where the pulse is complete, so
the first event of the bus comes after it. -/

namespace Sys2Proof.Machine

@[simp] theorem resetDrives_append_drive (trace : List Event) (d : Drive) :
    resetDrives (trace ++ [.pin .rst d]) = resetDrives trace ++ [d] := List.filterMap_append

/-- Every other event leaves the drives of the reset pin. -/
@[simp] theorem resetDrives_append_other {e : Event} (h : ∀ d, e ≠ .pin .rst d) (trace : List Event) :
    resetDrives (trace ++ [e]) = resetDrives trace := by
  have none : resetDrives [e] = [] := by
    cases e with
    | pin p d =>
      cases p with
      | rst => exact absurd rfl (h d)
      | cs | en => rfl
    | cfgPins | busOpen | busClose | tx | sleep => rfl
  rw [resetDrives, List.filterMap_append]
  exact (congrArg _ none).trans (List.append_nil _)

theorem State.expectedPulse_congr {s t : State} (hctl : t.ctl = s.ctl) (hrs : t.rs = s.rs) (hdev : t.dev = s.dev)
    (hs : t.started = s.started) : t.expectedPulse = s.expectedPulse := by
  rw [expectedPulse, expectedPulse, hctl, hrs, hdev, hs]

/-- While the encoder runs the pulse is complete: the controller is past `C_RESET`. -/
theorem State.PulseOk.complete {s : State} (h : s.PulseOk) (hf : s.fault = none) (hp : s.PositionOk)
    (he : s.enc ≠ .eIdle) : resetDrives s.trace = [.low, .high] ∧ s.expectedPulse = [[.low, .high]] := by
  have expected : s.expectedPulse = [[.low, .high]] := by
    unfold expectedPulse
    cases hc : s.ctl <;> simp_all [PositionOk]
  have ⟨_, _, hpulse⟩ := h
  exact ⟨by simpa [expected] using hpulse hf, expected⟩

/-- Once the pulse is complete any event but a further drive of the reset pin is allowed. -/
theorem State.PulseOk.of_complete {t : State} (hd : resetDrives t.trace = [.low, .high])
    (he : [.low, .high] ∈ t.expectedPulse) : t.PulseOk :=
  ⟨by simp [hd], .inl hd, fun _ => hd ▸ he⟩

/-- A step that shows nothing new of the pulse or the bus, to a position that allows what its own did. -/
theorem State.PulseOk.of_quiet {s t : State} (h : s.PulseOk) (hd : resetDrives t.trace = resetDrives s.trace)
    (hb : t.trace.any Event.isBus = s.trace.any Event.isBus)
    (he : t.fault = none → s.fault = none ∧ s.expectedPulse ⊆ t.expectedPulse) : t.PulseOk := by
  obtain ⟨hdrives, hbus, hpulse⟩ := h
  refine ⟨hd ▸ hdrives, by rw [hd, hb]; exact hbus, fun ht => ?_⟩
  obtain ⟨hf, hsub⟩ := he ht
  exact hd ▸ hsub (hpulse hf)

theorem Effect.keeps_pulse {s t : State} (hf : s.fault = none) (hi : s.Inv) (h : s.PulseOk) (he : Effect s t) :
    t.PulseOk := by
  have hp := hi.positions hf
  have ⟨_, hbus, hpulse⟩ := h
  cases he with
  | initDestroyed | displayDestroyed | displayNotReady | cfgFails | openFails | enFails | rsAssertFails | rsReleaseFails
  | encAssertFails | txFails | txClosed | encReleaseFails => exact h.of_quiet (by simp) (by simp) (by simp)
  | wait => exact h
  | initReady | initAccepted | displayAccepted | cfg | openBus | en | startReset | resetDone | digitsDone | brightDone
  | testLampDone | frameDone | testWait | testDone =>
    simp only [State.PositionOk, ‹s.ctl = _›] at hp
    refine h.of_quiet (by simp) (by simp [Event.isBus]) fun _ => ⟨hf, ?_⟩
    simp_all [State.expectedPulse]
  | teardownOpen rest hc | teardownClosed rest hc =>
    refine h.of_quiet (by simp) (by simp [Event.isBus]) fun _ => ⟨hf, ?_⟩
    cases hdev : s.dev <;> simp [State.expectedPulse, hc, hdev]
  | rsPre hr | rsHold hr =>
    obtain ⟨hc, -⟩ := hp.atReset (by simp [hr])
    refine h.of_quiet (by simp) (by simp [Event.isBus]) fun _ => ⟨hf, ?_⟩
    simp [State.expectedPulse, hc, hr]
  | rsAssert hr =>
    obtain ⟨hc, -⟩ := hp.atReset (by simp [hr])
    have hd : resetDrives s.trace = [] := by simpa [State.expectedPulse, hc, hr] using hpulse hf
    have silent : s.trace.any Event.isBus = false := by simpa [hd] using hbus
    refine ⟨?_, .inr ?_, fun _ => ?_⟩
    · simp [hd]
    · rw [List.any_append, silent]; rfl
    · simp [hd, State.expectedPulse, hc]
  | rsRelease hr =>
    obtain ⟨hc, hs⟩ := hp.atReset (by simp [hr])
    have hd : resetDrives s.trace = [.low] := by simpa [State.expectedPulse, hc, hr] using hpulse hf
    exact .of_complete (by simp [hd]) (by simp [State.expectedPulse, hc, hs])
  | startEncoder c hc hs henc hr =>
    refine h.of_quiet rfl rfl fun _ => ⟨hf, ?_⟩
    cases hctl : s.ctl <;> simp_all [State.expectedPulse, State.expectedCommand]
  | encAssert henc | encOpcodeAlone henc | encOpcode henc | encSingle b p henc | encNext b henc | encStop henc
  | encRelease henc =>
    obtain ⟨hd, expected⟩ := h.complete hf hp (by simp [henc])
    refine .of_complete (by simp [sent, hd]) ?_
    rw [State.expectedPulse_congr (s := s) (by simp [sent]) (by simp [sent]) (by simp [sent]) (by simp [sent]), expected]
    exact List.mem_singleton_self _

/-- Settles O54: the two rows that drive the reset pin complete the pulse, and the encoder waits for it. -/
theorem stepKeepsSingleResetPulse : Obligations.StepKeepsSingleResetPulse := by
  intro s t hi h hstep
  obtain ⟨hf, he⟩ := step_effect hstep
  exact he.keeps_pulse hf hi h

end Sys2Proof.Machine

/-! ## Cell writes and glyph uploads at the observer (R114, R115)

`exec_wire` leaves the effect on the observer. A cell write within the digit count is the run of `writeRun`, and any other is
undefined; an upload fills one slot. -/

namespace Sys2Proof.Machine

/-- A cell write within the known digit count leaves every cell outside its run (R114). -/
theorem Rx.cellAt_cellWrite_other {rx : Rx} {p : Nibble} {codes : List Byte} {d : Nat} (hu : rx.undef = false)
    (hd : rx.digits = some d) (hp : p.toNat < d) (hk : p.toNat + codes.length ≤ d) {q : Nat}
    (hq : q < p.toNat ∨ p.toNat + codes.length ≤ q) : (rx.cellWrite p codes).cellAt q = rx.cellAt q := by
  rw [Rx.cellWrite_within hu hd hp hk, Rx.cellAt, Rx.cellAt]
  rcases hq with hq | hq
  · rw [writeRun_before codes _ _ _ hq]
  · rw [writeRun_after codes _ _ _ hq]

/-- An undefined frame leaves every field unknown (R122). -/
theorem Rx.undefined_fields (rx : Rx) :
    rx.undefined.undef = true ∧ (∀ q, rx.undefined.cellAt q = none) ∧ (∀ i j, rx.undefined.glyphAt i j = none) ∧
    rx.undefined.digits = none ∧ rx.undefined.bright = none ∧ rx.undefined.lamp = none :=
  ⟨rfl, Rx.initial_cellAt, Rx.initial_glyphAt, rfl, rfl, rfl⟩

/-- Settles O7: the run within the digit count, cell by cell, and the undefined write outside it. -/
theorem cellWriteWritesConsecutiveCells : Obligations.CellWriteWritesConsecutiveCells := by
  intro s p codes
  have effect : exec (.cellWrite p codes) s = .next { s with rx := s.rx.cellWrite p codes } := exec_wire rfl s
  refine ⟨fun d hu hd h16 hp hk => ⟨_, effect, fun j hj => ?run, fun q hq => ?others, ?rest⟩,
    fun h => ⟨_, effect, ?outside⟩⟩
  case run => exact Rx.cellAt_cellWrite_within hu hd h16 hp hk hj
  case others => exact Rx.cellAt_cellWrite_other hu hd hp hk hq
  case rest =>
    rw [Rx.cellWrite_within hu hd hp hk]
    exact ⟨rfl, rfl, rfl, rfl, hu⟩
  case outside =>
    rw [Rx.cellWrite_outside h]
    exact s.rx.undefined_fields

/-- An upload of at most five bytes fills its slot (R115). -/
theorem Rx.glyphWrite_of_le {rx : Rx} (hu : rx.undef = false) {bitmap : List Byte} (hlen : bitmap.length ≤ 5) (i : Nibble) :
    rx.glyphWrite i bitmap = { rx with cgram := rx.cgram.setIfInBounds i.toNat (glyphSlot bitmap) } := by
  rw [Rx.glyphWrite, Rx.whileDefined_of_defined hu, if_pos hlen]

/-- Settles O8: byte by byte, the slot written and the slots left. -/
theorem glyphWriteStoresTheBytesSent : Obligations.GlyphWriteStoresTheBytesSent := by
  intro s i bitmap hu hlen
  refine ⟨_, exec_wire rfl s, ?_⟩
  rw [Rx.apply, Rx.glyphWrite_of_le hu hlen]
  refine ⟨fun j hj => ?slot, fun k j hk => ?others, rfl, rfl, rfl, rfl, hu⟩
  case slot =>
    have hi : i.toNat < 16 := i.isLt
    simp [Rx.glyphAt, hi, glyphSlot_get bitmap j hj]
  case others => simp [Rx.glyphAt, hk.symm]

end Sys2Proof.Machine

/-! ## Undefined frames (R122)

A frame is undefined when its bytes do not decode; which opcodes these are is told by their high nibble and the four opcodes
that stand alone. -/

namespace Sys2Proof.Machine

/-- The cell opcodes are `0x20` to `0x2F` (R46). -/
theorem mask_eq_opCell_iff : ∀ op : Byte, op &&& 0xF0#8 = opCell ↔ 0x20 ≤ op.toNat ∧ op.toNat < 0x30 := by decide

/-- The glyph opcodes are `0x40` to `0x4F` (R46). -/
theorem mask_eq_opGlyph_iff : ∀ op : Byte, op &&& 0xF0#8 = opGlyph ↔ 0x40 ≤ op.toNat ∧ op.toNat < 0x50 := by decide

/-- An opcode that is none of the six decodes to nothing (R47, R65). -/
theorem decodeFrame_of_unassigned {op : Byte} (hcell : ¬(0x20 ≤ op.toNat ∧ op.toNat < 0x30))
    (hglyph : ¬(0x40 ≤ op.toNat ∧ op.toNat < 0x50)) (h : op ∉ [opSetDigits, opBrightness, opNormal, opLampTest])
    (payload : List Byte) : decodeFrame (op :: payload) = .error (.unassignedOpcode op) := by
  simp only [List.mem_cons, List.not_mem_nil, or_false, not_or] at h
  obtain ⟨h1, h2, h3, h4⟩ := h
  rw [decodeFrame, if_neg (mt (mask_eq_opCell_iff op).1 hcell), if_neg (mt (mask_eq_opGlyph_iff op).1 hglyph), if_neg h1,
    if_neg h2, if_neg h3, if_neg h4]

/-- A glyph opcode with more than five bytes decodes to nothing (log 16). -/
theorem decodeFrame_of_long_glyph {op : Byte} (hglyph : 0x40 ≤ op.toNat ∧ op.toNat < 0x50) {payload : List Byte}
    (hlen : 5 < payload.length) : decodeFrame (op :: payload) = .error (.payloadLength op payload.length) := by
  rw [decodeFrame, if_neg (mt (mask_eq_opCell_iff op).1 (by omega)), if_pos ((mask_eq_opGlyph_iff op).2 hglyph),
    if_neg (Nat.not_le.2 hlen)]

/-- The four opcodes that stand alone lie above the cell and glyph opcodes. -/
theorem toNat_ge_of_standalone : ∀ op ∈ [opSetDigits, opBrightness, opNormal, opLampTest], 0x50 ≤ op.toNat := by decide

/-- Settles O11: an unassigned opcode, an over-long glyph, and the two kinds of command of a fixed length. -/
theorem wrongFramesAreUndefined : Obligations.WrongFramesAreUndefined := by
  intro rx op payload h
  rw [← rx.undefined_eq]
  rcases h with hop | ⟨hop, hlen⟩ | ⟨hop, hlen⟩ | ⟨hop, hp⟩
  · refine Rx.receive_of_error (decodeFrame_of_unassigned (by omega) (by omega) (fun hmem => ?_) payload) rx
    have high := toNat_ge_of_standalone op hmem
    rcases hop with hop | hop | ⟨-, hnot⟩
    · omega
    · omega
    · exact hnot hmem
  · exact Rx.receive_of_error (decodeFrame_of_long_glyph hop hlen) rx
  · simp only [List.mem_cons, List.not_mem_nil, or_false] at hop
    rcases hop with rfl | rfl
    · exact rx.receive_setDigits_of_length_ne hlen
    · exact rx.receive_brightness_of_length_ne hlen
  · simp only [List.mem_cons, List.not_mem_nil, or_false] at hop
    rcases hop with rfl | rfl
    · exact rx.receive_normal_of_ne_nil hp
    · exact rx.receive_lampTest_of_ne_nil hp

/-- Settles O12: `undef` is sticky for commands and frames, and what is shown asks for it first. -/
theorem undefinedObserverStaysUndefined : Obligations.UndefinedObserverStaysUndefined := by
  refine ⟨fun i s hw hu => ?commands, fun rx bytes hu => ?frames, fun rx p hu => ?shown⟩
  case commands => rw [exec_wire hw, Rx.apply_of_undef hw hu, Rx.undefined_eq]
  case frames => rw [Rx.receive_of_undef hu, Rx.undefined_eq]
  case shown => rw [Rx.shown, if_pos hu]

/-- Settles O4: each frame written out is decoded by evaluation. -/
theorem writtenFramesDecode : Obligations.WrittenFramesDecode := by
  unfold Obligations.WrittenFramesDecode
  decide

end Sys2Proof.Machine

/-! ## What a cell shows (R120) -/

namespace Sys2Proof.Machine

theorem Rx.shown_of_lampTest {rx : Rx} (hu : rx.undef = false) (hl : rx.lamp = some true) {p : Nat} (hp : p < 16) :
    rx.shown p = .allSegments := by
  simp [Rx.shown, hu, hl, hp]

/-- With the lamp test off a cell below the digit count shows its code. -/
theorem Rx.shown_of_code {rx : Rx} (hu : rx.undef = false) (hl : rx.lamp = some false) {p d : Nat} {code : Byte}
    (hd : rx.digits = some d) (hp : p < d) (hc : rx.cellAt p = some code) : rx.shown p = rx.showCode code := by
  simp [Rx.shown, hu, hl, hd, hc, hp]

/-- Settles O59: the lamp test, and the three kinds of code. -/
theorem displayShowsWhatTheCellHolds : Obligations.DisplayShowsWhatTheCellHolds := by
  intro rx p d code hu
  refine ⟨fun hl hp => Rx.shown_of_lampTest hu hl hp, fun hl hd hp hc => ?_⟩
  rw [Rx.shown_of_code hu hl hd hp hc, Rx.showCode]
  refine ⟨fun b0 b1 b2 b3 b4 hcode h0 h1 h2 h3 h4 => ?custom, fun hlow hhigh => ?builtIn, fun hblank => ?blank⟩
  case custom => rw [if_pos hcode]; simp [Rx.bitmap, h0, h1, h2, h3, h4]
  case builtIn => rw [if_neg (by omega), if_pos ⟨hlow, hhigh⟩]
  case blank => subst hblank; rfl

end Sys2Proof.Machine

/-! ## The display operations with every call succeeding (R103 to R108)

Five of the six are one frame, F1 or FN, and `displayOp_single_of_success` says what such an operation comes to. FULL_TEST is two
frames with the wait between. -/

namespace Sys2Proof.Machine

/-! ### One frame of each shape -/

/-- A display operation of one F1 frame: its two bytes are sent. -/
theorem displayOp_f1_of_success (r : Request) (op b : Byte) {s : State} {rest : List Bool} (ha : s.Accepting)
    (ho : s.Operational) (hw : r.wf = true) (hr : s.Succeeds 4 rest) :
    displayOp r [frame (.f1 op b)] s = .next { s with
      lvlCs := .driven .high
      req := none
      encShape := .f1
      encOp := op
      encBuf := [b]
      encIdx := 1
      trace := s.trace ++ [.pin .cs .low, .tx op, .tx b, .pin .cs .high]
      rx := s.rx.receiveFrom (Request.outOfRange s.cfg r) [op, b]
      results := rest } := by
  obtain ⟨hf, hi, hx⟩ := ha
  obtain ⟨hd, hb⟩ := ho
  exact displayOp_single_of_success r (.f1 op b) hf hi hx hd hb hw hr

/-- A display operation of one FN frame: its payload is sent up to the first zero (R73). -/
theorem displayOp_fn_of_success (r : Request) (op : Byte) (p : List Byte) {s : State} {rest : List Bool} (ha : s.Accepting)
    (ho : s.Operational) (hw : r.wf = true) (hr : s.Succeeds (3 + (untilZero p).length) rest) :
    displayOp r [frame (.fn op p)] s = .next { s with
      lvlCs := .driven .high
      req := none
      encShape := .fn
      encOp := op
      encBuf := p
      encIdx := (untilZero p).length
      trace := s.trace ++ [.pin .cs .low, .tx op] ++ (untilZero p).map Event.tx ++ [.pin .cs .high]
      rx := s.rx.receiveFrom (Request.outOfRange s.cfg r) (op :: untilZero p)
      results := rest } := by
  obtain ⟨hf, hi, hx⟩ := ha
  obtain ⟨hd, hb⟩ := ho
  have count : 2 + (Command.fn op p).bytes.length = 3 + (untilZero p).length := by
    rw [Command.bytes, List.length_cons]; omega
  rw [displayOp_single_of_success r (.fn op p) hf hi hx hd hb hw (by rw [count]; exact hr)]
  simp [Command.shape, Command.op, Command.payload, Command.idxAfter, Command.bytes, frameEvents]

/-! ### The observer's two cases -/

/-- A frame is undefined where its argument is out of range, and otherwise goes by its bytes (R59, log 29). -/
theorem Rx.receiveFrom_decide (P : Prop) [Decidable P] (frame : List Byte) (rx : Rx) :
    rx.receiveFrom (decide P) frame = if P then { Rx.initial with undef := true } else rx.receive frame := by
  by_cases h : P <;> simp [h, Rx.undefined_eq]

/-- The brightness is stored, unless something undefined has occurred (R117, log 28). -/
theorem Rx.setBrightness_eq_ite (v : Byte) (rx : Rx) :
    rx.setBrightness v = if rx.undef then { Rx.initial with undef := true } else { rx with bright := some v } := rfl

/-- A lamp test that is ended leaves the lamp off, unless something undefined has occurred (R118, R119, log 28). -/
theorem Rx.normal_lampTest_eq_ite (rx : Rx) :
    rx.lampTest.normal = if rx.undef then { Rx.initial with undef := true } else { rx with lamp := some false } := by
  cases hu : rx.undef with
  | false => rw [Rx.lampTest_of_defined hu, Rx.normal_of_defined (by exact hu)]; simp [hu]
  | true => rw [Rx.lampTest, Rx.whileDefined_of_undef hu]; rfl

/-! ### Arguments of their types (R12, R132) -/

theorem isByte_of_lt {n : Nat} (h : n < 256) : isByte n = true := decide_eq_true h

theorem all_isByte_of_lt {l : List Nat} (h : ∀ n ∈ l, n < 256) : l.all isByte = true :=
  List.all_eq_true.2 fun n hn => isByte_of_lt (h n hn)

theorem wf_writeChar {position code : Nat} (hp : position < 256) (hc : code < 256) :
    (Request.writeChar position code).wf = true := by
  rw [Request.wf, isByte_of_lt hp, isByte_of_lt hc]; rfl

theorem wf_writeString {start : Nat} {text : List Nat} (hs : start < 256) (ht : ∀ c ∈ text, c < 256) :
    (Request.writeString start text).wf = true := by
  rw [Request.wf, isByte_of_lt hs, all_isByte_of_lt ht]; rfl

theorem wf_loadCustomFont {id : Nat} {data : List Nat} (hid : id < 256) (hlen : data.length = 5)
    (hd : ∀ b ∈ data, b < 256) : (Request.loadCustomFont id data).wf = true := by
  rw [Request.wf, isByte_of_lt hid, all_isByte_of_lt hd, hlen]; rfl

/-! ### The operations -/

/-- Settles O13: the F1 frame of position and code. -/
theorem writeCharSendsOneF1Frame : Obligations.WriteCharSendsOneF1Frame := by
  intro s position code rest ha ho hp hc hr
  have run : exec (.writeChar position code) s = .next _ :=
    displayOp_f1_of_success (.writeChar position code) (cellOpcode position) (byteOf code) ha ho (wf_writeChar hp hc) hr
  rw [run, Request.outOfRange, Rx.receiveFrom_decide]
  rfl

/-- Settles O14: the FN frame of the start and the text. -/
theorem writeStringSendsTextUpToFirstZero : Obligations.WriteStringSendsTextUpToFirstZero := by
  rintro s start text rest _ ha ho hs ht rfl hr
  have run : exec (.writeString start text) s = .next _ :=
    displayOp_fn_of_success (.writeString start text) (cellOpcode start) (text.map byteOf) ha ho (wf_writeString hs ht) hr
  rw [run, Request.outOfRange, Rx.receiveFrom_decide]
  rfl

/-- Settles O15: the FN frame of the identifier and the bitmap. -/
theorem loadCustomFontSendsBitmapUpToFirstZero : Obligations.LoadCustomFontSendsBitmapUpToFirstZero := by
  rintro s id data rest _ ha ho hid hlen hd rfl hr
  have run : exec (.loadCustomFont id data) s = .next _ :=
    displayOp_fn_of_success (.loadCustomFont id data) (glyphOpcode id) (data.map byteOf) ha ho
      (wf_loadCustomFont hid hlen hd) hr
  rw [run, Request.outOfRange, Rx.receiveFrom_decide]
  rfl

/-- Settles O16: the F1 frame of the level, which is in range at every value. -/
theorem setBrightnessSendsLevel : Obligations.SetBrightnessSendsLevel := by
  intro s level rest ha ho hl hr
  have run : exec (.setBrightness level) s = .next _ :=
    displayOp_f1_of_success (.setBrightness level) opBrightness (byteOf level) ha ho (isByte_of_lt hl) hr
  rw [run, Request.outOfRange, Rx.receiveFrom_false, Rx.receive_brightness, Rx.setBrightness_eq_ite]
  rfl

/-- Settles O18: the FN frame of the spaces, none of which is the terminator. -/
theorem clearSendsOneSpacePerDigit : Obligations.ClearSendsOneSpacePerDigit := by
  intro s rest ha ho hr
  have count : (untilZero (blanks s.cfg)).length = s.cfg.digits.toNat := by
    rw [untilZero_blanks, blanks, List.length_replicate]
  have run : exec .clear s = .next _ :=
    displayOp_fn_of_success .clear opCell (blanks s.cfg) ha ho rfl (by rw [count]; exact hr)
  rw [run, Request.outOfRange, Rx.receiveFrom_false, count, untilZero_blanks, blanks, List.map_replicate]
  rfl

/-- Settles O19: the spaces are the text's bytes, and cell 0 lies below the digit count. -/
theorem clearIsWriteStringOfSpaces : Obligations.ClearIsWriteStringOfSpaces := by
  intro s rest hw ha ho hr
  obtain ⟨hpos, -⟩ := digits_bounds_of_wf hw
  have inRange : ¬ s.cfg.digits.toNat ≤ 0 := by omega
  have bytes : (List.replicate s.cfg.digits.toNat 0x20).map (BitVec.ofNat 8) = blanks s.cfg := by
    rw [List.map_replicate]; rfl
  have sent : blanks s.cfg =
      ((List.replicate s.cfg.digits.toNat 0x20).map (BitVec.ofNat 8)).takeWhile (fun b => b != 0x00#8) := by
    rw [bytes]; exact (untilZero_blanks s.cfg).symm
  have count : (blanks s.cfg).length = s.cfg.digits.toNat := List.length_replicate
  have small : ∀ c ∈ List.replicate s.cfg.digits.toNat 0x20, c < 256 := by
    intro c hc
    rw [List.eq_of_mem_replicate hc]
    decide
  rw [clearSendsOneSpacePerDigit s rest ha ho hr,
    writeStringSendsTextUpToFirstZero s 0 _ rest _ ha ho (by decide) small sent (by rw [count]; exact hr), if_neg inRange,
    bytes, count, blanks, List.map_replicate]
  rfl

/-- An F0 frame with no out-of-range argument behind it: its opcode is sent, and the observer receives it. -/
theorem frame_f0_of_success (op : Byte) {s : State} {rest : List Bool} (hf : s.fault = none) (ho : s.busOpen = true)
    (hm : s.misaddressed = false) (hr : s.Succeeds 3 rest) :
    frame (.f0 op) s = { s with
      lvlCs := .driven .high
      enc := .eIdle
      started := true
      encShape := .f0
      encOp := op
      encBuf := []
      trace := s.trace ++ [.pin .cs .low, .tx op, .pin .cs .high]
      rx := s.rx.receive [op]
      rxFrame := none
      results := rest } := by
  rw [frame_of_success (.f0 op) hf ho (by exact hr), hm]
  rfl

/-- Settles O17: the lamp-test frame at `C_FRAME`, the wait, and the normal frame at `C_FRAME2`, three calls for each frame. -/
theorem fullTestSendsLampWaitNormal : Obligations.FullTestSendsLampWaitNormal := by
  intro s durationMs rest ⟨hf, hi, hx⟩ ⟨hd, hb⟩ hms hr
  obtain ⟨hctl, hrs, henc, hstarted⟩ := s.idle_iff.1 hi
  have hw : (Request.fullTest durationMs).wf = true := decide_eq_true hms
  show displayOp (.fullTest durationMs)
    [frame (.f0 opLampTest), firstFrameDone, waitRow durationMs, frame (.f0 opNormal)] s = _
  rw [displayOp, request_taken hf hi hw]
  simp only [List.cons_append, List.nil_append]
  rw [State.runAll_step hf, acceptDisplay_of_ready hd, State.runAll_step (by exact hf),
    frame_f0_of_success opLampTest (rest := List.replicate 3 true ++ rest) (by exact hf) (by exact hb) (by rfl) (by exact hr),
    State.runAll_step (by exact hf), State.runAll_step (by exact hf), State.runAll_step (by exact hf),
    frame_f0_of_success opNormal (rest := rest) (by exact hf) (by exact hb) (by rfl) (by rfl), State.runAll_step (by exact hf)]
  simp [firstFrameDone, waitRow, State.sleep, State.emit, opDone, Rx.onEvent, captureEvent, Rx.receive_lampTest,
    Rx.receive_normal, Rx.normal_lampTest_eq_ite, hctl, henc, hstarted, hx]
  decide

end Sys2Proof.Machine

/-! ## Refusals (R27, R95, R132)

Every host operation is a request (`exec_request`), and a request is refused before anything is taken: away from `C_IDLE`, or
with an argument outside its type. The steps of bring-up are refused away from their position. -/

namespace Sys2Proof.Machine

/-- At rest an ill-typed request is refused before it starts. -/
theorem request_of_ill_typed {s : State} {r : Request} (hf : s.fault = none) (hi : s.idle = true) (hw : r.wf = false)
    (taken : State → State) : request r taken s = .refused .badArgument := by
  simp [request, hf, hi, hw]

theorem exec_of_ill_typed {s : State} {r : Request} (hf : s.fault = none) (hi : s.idle = true) (hw : r.wf = false) :
    exec r.toInstr s = .refused .badArgument := by
  obtain ⟨taken, asRequest⟩ := exec_request r s
  rw [asRequest, request_of_ill_typed hf hi hw]

/-- Away from `C_IDLE` no request is accepted. -/
theorem exec_of_not_idle {s : State} (hf : s.fault = none) (hi : s.idle = false) (r : Request) :
    exec r.toInstr s = .refused .busy := by
  obtain ⟨taken, asRequest⟩ := exec_request r s
  rw [asRequest]
  simp [request, hf, hi]

theorem atItsStep_of_ne {s : State} {c : Ctl} (hf : s.fault = none) (hc : s.ctl ≠ c) (effect : State → State) :
    atItsStep c effect s = .refused .notAtItsStep := by
  simp [atItsStep, hf, State.atStep, hc]

theorem isByte_of_ge {n : Nat} (h : 256 ≤ n) : isByte n = false := decide_eq_false (Nat.not_lt.2 h)

theorem all_isByte_of_exists_ge {l : List Nat} (h : ∃ n ∈ l, 256 ≤ n) : l.all isByte = false := by
  obtain ⟨n, hn, hge⟩ := h
  exact List.all_eq_false.2 ⟨n, hn, by simp [isByte_of_ge hge]⟩

/-- Settles O23: each way to be ill typed makes `wf` false, and a well-typed request at rest is taken. -/
theorem illTypedArgumentIsRefused : Obligations.IllTypedArgumentIsRefused := by
  intro s hf hi
  refine ⟨fun position code h => ?writeChar, fun start text h => ?writeString, fun id data h => ?loadCustomFont,
    fun level h => ?setBrightness, fun ms h => ?fullTest, fun r hw => ?wellTyped⟩
  case writeChar =>
    refine exec_of_ill_typed (r := .writeChar position code) hf hi ?_
    rcases h with h | h <;> simp [Request.wf, isByte_of_ge h]
  case writeString =>
    refine exec_of_ill_typed (r := .writeString start text) hf hi ?_
    rcases h with h | h
    · simp [Request.wf, isByte_of_ge h]
    · rw [Request.wf, all_isByte_of_exists_ge h, Bool.and_false]
  case loadCustomFont =>
    refine exec_of_ill_typed (r := .loadCustomFont id data) hf hi ?_
    rcases h with h | h | h
    · simp [Request.wf, isByte_of_ge h]
    · simp [Request.wf, h]
    · rw [Request.wf, all_isByte_of_exists_ge h, Bool.and_false]
  case setBrightness => exact exec_of_ill_typed (r := .setBrightness level) hf hi (isByte_of_ge h)
  case fullTest => exact exec_of_ill_typed (r := .fullTest ms) hf hi (decide_eq_false (Nat.not_lt.2 h))
  case wellTyped =>
    obtain ⟨taken, asRequest⟩ := exec_request r s
    exact ⟨taken s, asRequest.trans (request_taken hf hi hw)⟩

/-- Settles O24: a request looks at `C_IDLE`, and a step of bring-up at its own position. -/
theorem operationsAreRefusedAwayFromTheirPosition : Obligations.OperationsAreRefusedAwayFromTheirPosition := by
  refine ⟨fun s r hf hc => exec_of_not_idle hf ?_ r, fun s hf => ⟨fun hc => ?_, fun hc => ?_, fun hc => ?_⟩⟩
  · simp [State.idle, hc]
  all_goals exact atItsStep_of_ne hf hc _

end Sys2Proof.Machine

/-! ## INIT in Ready, INIT that fails, and TEARDOWN (R81 to R83, R91, R98)

INIT in Ready is over at its acceptance. In Uninitialized it is bring-up, whose first two steps are one call each. -/

namespace Sys2Proof.Machine

/-- INIT in Ready is accepted without any effect, and bring-up is not begun (R81). -/
theorem initCall_of_ready {s : State} (hf : s.fault = none) (hc : s.ctl = .cIdle) (hd : s.dev = .ready) :
    initCall s = s := by
  have accepted : acceptInit s = s := by simp [acceptInit, hd]
  rw [initCall, accepted, State.andThen_of_none hf, if_neg (by simp [hc])]

/-- Settles O28: INIT in Ready is over at its acceptance. -/
theorem initInReadyIsNoOp : Obligations.InitInReadyIsNoOp := by
  rintro s ⟨hf, hi, -⟩ hd
  obtain ⟨hctl, -⟩ := s.idle_iff.1 hi
  have taken : exec .init s = .next (initCall s) := request_taken hf hi rfl
  rw [taken, initCall_of_ready hf hctl hd]

/-- INIT in Uninitialized is its acceptance and then bring-up. -/
theorem exec_init_of_uninitialized {s : State} (ha : s.Accepting) (hd : s.dev = .uninitialized) :
    exec .init s = .next (bringUp { s with req := some .init, ctl := .cCfg }) := by
  obtain ⟨hf, hi, -⟩ := ha
  have taken : exec .init s = .next (initCall s) := request_taken hf hi rfl
  rw [taken, initCall_of_uninitialized hf hd]

/-- Settles O30: the failing call raises its fault, and the rest of bring-up is not run. -/
theorem failingBringUpIsFatal : Obligations.FailingBringUpIsFatal := by
  intro s rest ha hd
  rw [exec_init_of_uninitialized ha hd]
  obtain ⟨hf, hi, hx⟩ := ha
  obtain ⟨hctl, hrs, henc, hstarted⟩ := s.idle_iff.1 hi
  refine ⟨fun hr => ?configure, fun hr => ?openTransport⟩
  case configure =>
    rw [bringUp, State.runAll_step (by exact hf), cfgRow_of_failure (by exact hr), State.runAll_of_some (State.raise_fault _ _)]
    simp [State.raise, State.position, hrs, henc, hx]
  case openTransport =>
    rw [bringUp, State.runAll_step (by exact hf), cfgRow_of_success (by exact hf) (by exact hr),
      State.runAll_step (by exact hf), openRow_of_failure (by rfl), State.runAll_of_some (State.raise_fault _ _)]
    simp [State.raise, State.position, hrs, henc, hx]

/-- Settles O34: teardown is one step, which closes the handle if it is open. -/
theorem teardownReleasesTheHandleOnce : Obligations.TeardownReleasesTheHandleOnce := by
  rintro s ⟨hf, hi, -⟩
  have taken : exec .teardown s = .next (acceptTeardown s) := request_taken hf hi rfl
  rw [taken]
  refine ⟨fun ho => ?opened, fun ho => ?closed, fun ho hd => ?again⟩
  case opened => simp [acceptTeardown, State.closeBus, ho, State.emit, Rx.onEvent, captureEvent]
  case closed => simp [acceptTeardown, State.closeBus, ho]
  case again => rw [acceptTeardown, State.closeBus, if_neg (by simp [ho]), ← hd]

/-- Settles O60: of the events of INIT, one wait stands before the reset pulse and one within it. -/
theorem initHoldsResetLowTwoMilliseconds : Obligations.InitHoldsResetLowTwoMilliseconds := by
  intro s t rest ha hd hr h
  rw [initEmitsItsFifteenEvents s rest ha hd hr] at h
  cases h
  exact ⟨s.trace ++ [.cfgPins, .busOpen s.cfg.clockHz], [.sleep 2], [.sleep 2],
    [.pin .cs .low, .tx 0xE0#8, .tx (s.cfg.digits - 1#8), .pin .cs .high,
      .pin .cs .low, .tx 0xE4#8, .tx 0xFF#8, .pin .cs .high],
    by simp, by decide, by decide, rfl⟩

end Sys2Proof.Machine

/-! ## The steps of bring-up run as instructions (R85, R86, R92) -/

namespace Sys2Proof.Machine

/-- A step of bring-up at its position has its effect. -/
theorem atItsStep_taken {s : State} {c : Ctl} (hf : s.fault = none) (ha : s.atStep c = true) (effect : State → State) :
    atItsStep c effect s = .next (effect s) := by
  simp [atItsStep, hf, ha]

/-- Settles O31: the four rows of the Reset Sequencer, started and left at rest. -/
theorem resetSequencePulsesResetLow : Obligations.ResetSequencePulsesResetLow := by
  intro s rest hf ha hr
  obtain ⟨-, hrs, -, -⟩ := (s.atStep_iff .cReset).1 ha
  have taken : exec .resetSequence s = .next (resetPulse s) := atItsStep_taken hf ha resetPulse
  rw [taken, resetPulse_of_success hf hr]
  simp [hrs]

/-- Settles O32: the F1 frame of the digit count. -/
theorem initSetDigitsSendsCountLessOne : Obligations.InitSetDigitsSendsCountLessOne := by
  intro s rest hf ha ho hr
  obtain ⟨hctl, -, henc, -⟩ := (s.atStep_iff .cDigits).1 ha
  have taken : exec .initSetDigits s = .next (frame (.f1 opSetDigits (digitsPayload s.cfg)) s) :=
    atItsStep_taken hf ha sendDigits
  rw [taken, frame_f1_of_success _ _ hf ho (by simp [hctl]) hr]
  simp [henc, opSetDigits, digitsPayload]

/-- Settles O33: the F1 frame of the maximal brightness. -/
theorem initBrightnessSendsMaximum : Obligations.InitBrightnessSendsMaximum := by
  intro s rest hf ha ho hr
  obtain ⟨hctl, -, henc, -⟩ := (s.atStep_iff .cBright).1 ha
  have taken : exec .initBrightness s = .next (frame (.f1 opBrightness maxBrightness) s) :=
    atItsStep_taken hf ha sendBrightness
  rw [taken, frame_f1_of_success _ _ hf ho (by simp [hctl]) hr, Rx.receive_brightness, Rx.setBrightness_eq_ite]
  simp [henc, opBrightness, maxBrightness]

end Sys2Proof.Machine

/-! ## The rows of the tables as steps (R74, R89, R93, R109)

`row_step` is the converse of `step_row`: the conditions of a row select it. A statement about a row is then the row's name and
what the row gives, with the capability call's answer placed. -/

namespace Sys2Proof.Machine

/-- A block at rest answers the next request. -/
theorem step_of_request {s : State} {r : Request} {rest : List Request} (hf : s.fault = none) (hi : s.idle = true)
    (hq : s.calls = r :: rest) : step s = request r (accept r) { s with calls := rest } := by
  obtain ⟨hc, hr, he, hs⟩ := s.idle_iff.1 hi
  simp [step, blockStep, sequencerStep, controllerStep, fetchRequest, hf, hc, hr, he, hs, hq]

/-- A row whose conditions hold is the one that the step takes. -/
theorem row_step {s t : State} (hf : s.fault = none) (h : Row s t) : step s = .next t := by
  cases h with
  | accept r rest hc hs hq hw he hr =>
    have idle : s.idle = true := s.idle_iff.2 ⟨hc, hr, he, hs⟩
    rw [step_of_request hf idle hq, request_taken (by exact hf) (by exact idle) hw]
  | frameDone r hc hs hq hd hn he hr =>
    cases r with
    | init | teardown => cases hd
    | fullTest ms => exact absurd rfl (hn ms)
    | writeChar | writeString | loadCustomFont | setBrightness | clear =>
      simp [step, blockStep, sequencerStep, hf, he, hr, controllerStep, hc, hs, endFirstFrame, hq]
  | wait | cfg | openBus | en | startReset | resetDone | startDigits | digitsDone | startBright | brightDone | startFirst
  | testLampDone | testWait | startSecond | testDone =>
    simp [*, step, blockStep, sequencerStep, controllerStep, fetchRequest, startFirstFrame, endFirstFrame, waitStep]
  | rsPre hr he | rsAssert hr he | rsHold hr he | rsRelease hr he => simp [step, blockStep, sequencerStep, hf, he, hr, resetStep]
  | encAssert he hr | encOpcode he hr => simp [step, blockStep, sequencerStep, hf, he, hr, encoderStep]
  | encSingle b p he hs hb hr => simp [step, blockStep, sequencerStep, hf, he, hr, encoderStep, payloadStep, hs, hb]
  | encNext b he hs hb hz hr => simp [step, blockStep, sequencerStep, hf, he, hr, encoderStep, payloadStep, hs, hb, hz]
  | encStop he hs hb hr => rcases hb with hb | hb <;> simp [step, blockStep, sequencerStep, hf, he, hr, encoderStep, payloadStep, hs, hb]
  | encRelease he hr => simp [step, blockStep, sequencerStep, hf, he, hr, encoderStep, releaseStep_eq]

/-! ### The tables, each call succeeding -/

/-- Settles O38: the seven rows of the encoder. -/
theorem encoderTakesTheRowsOfItsTable : Obligations.EncoderTakesTheRowsOfItsTable := by
  intro s rest hf hr ho hres
  refine ⟨fun he => ?assert, fun he hs => ?opcodeAlone, fun he hs => ?opcode, fun b he hs hb => ?single,
    fun b he hs hb hz => ?next, fun he hs hb => ?stop, fun he => ?release⟩
  case assert => rw [row_step hf (.encAssert he hr), encAssert_of_success hf hres]
  case opcodeAlone => rw [row_step hf (.encOpcode he hr), encOpcode_of_success hf ho hres, afterOpcode_f0 (by exact hs)]
  case opcode => rw [row_step hf (.encOpcode he hr), encOpcode_of_success hf ho hres, afterOpcode_payload (by exact hs)]
  case single =>
    obtain ⟨p, hp⟩ : ∃ p, s.encBuf = b :: p := by
      cases hbuf : s.encBuf with
      | nil => simp [hbuf] at hb
      | cons a p => exact ⟨p, by simpa [hbuf] using hb⟩
    rw [row_step hf (.encSingle b p he hs hp hr), encSingle_of_success hf ho hres]
  case next => rw [row_step hf (.encNext b he hs hb hz hr), encNext_of_success hf ho hres]
  case stop =>
    have ended : s.encBuf[s.encIdx]? = none ∨ s.encBuf[s.encIdx]? = some terminator :=
      hb.imp_left fun h => List.getElem?_eq_none h.ge
    rw [row_step hf (.encStop he hs ended hr), encStop]
  case release =>
    rw [row_step hf (.encRelease he hr)]
    cases hx : s.rxFrame with
    | none =>
      refine ⟨s.rx, ?_⟩
      rw [encRelease, releaseCs_of_success hf hres, State.andThen_of_none (by exact hf), State.deliver_of_none (by exact hx),
        ← hx]
    | some bytes => exact ⟨_, congrArg _ (encRelease_of_success hf hres hx)⟩

/-- Settles O39: the start of the Reset Sequencer and its four rows. -/
theorem resetSequencerTakesTheRowsOfItsTable : Obligations.ResetSequencerTakesTheRowsOfItsTable := by
  intro s rest hf he hres
  refine ⟨fun hr hc hs => ?start, fun hr => ?pre, fun hr => ?assert, fun hr => ?hold, fun hr => ?release⟩
  case start => rw [row_step hf (.startReset hc hs he hr), startReset]
  case pre => rw [row_step hf (.rsPre hr he), rsPreRow_eq]
  case assert => rw [row_step hf (.rsAssert hr he), rsAssertRow_of_success hf hres]
  case hold => rw [row_step hf (.rsHold hr he), rsHoldRow_eq]
  case release => rw [row_step hf (.rsRelease hr he), rsReleaseRow_of_success hf hres]

/-- Settles O40: acceptance in each device state, the three calls and the two that fail, the three starts and the three ends. -/
theorem controllerTakesTheRowsOfBringUp : Obligations.ControllerTakesTheRowsOfBringUp := by
  intro s hf hr he
  refine ⟨fun rest hc hs hq => ?acceptance, fun rest hs hres => ⟨fun hc => ?cfg, fun hc => ?openBus, fun hc => ?en⟩,
    fun rest hs hres => ⟨fun hc => ?cfgFails, fun hc => ?openFails⟩,
    fun hs => ⟨fun hc => ?startReset, fun hc => ?startDigits, fun hc => ?startBright⟩,
    fun hs => ⟨fun hc => ?resetDone, fun hc => ?digitsDone, fun hc => ?brightDone⟩⟩
  case acceptance =>
    rw [row_step hf (.accept .init rest hc hs hq rfl he hr), accept]
    refine ⟨fun hd => ?_, fun hd => ?_, fun hd => ?_⟩ <;> simp [acceptInit, hd, latch]
  case cfg => rw [row_step hf (.cfg hc hs he hr), cfgRow_of_success hf hres]
  case openBus => rw [row_step hf (.openBus hc hs he hr), openRow_of_success hf hres]
  case en => rw [row_step hf (.en hc hs he hr), enRow_of_success hf hres]
  case cfgFails => rw [row_step hf (.cfg hc hs he hr), cfgRow_of_failure hres]
  case openFails => rw [row_step hf (.openBus hc hs he hr), openRow_of_failure hres]
  case startReset => exact row_step hf (.startReset hc hs he hr)
  case startDigits => exact row_step hf (.startDigits hc hs he hr)
  case startBright => exact row_step hf (.startBright hc hs he hr)
  case resetDone => exact row_step hf (.resetDone hc hs he hr)
  case digitsDone => exact row_step hf (.digitsDone hc hs he hr)
  case brightDone => exact row_step hf (.brightDone hc hs he hr)

/-- A display operation has a first frame (R109). -/
theorem Request.exists_firstCommand {r : Request} (h : r.isDisplay = true) (c : Configuration) :
    ∃ first, Request.firstCommand c r = some first := by
  cases r with
  | init | teardown => cases h
  | writeChar | writeString | loadCustomFont | setBrightness | fullTest | clear => exact ⟨_, rfl⟩

/-- At `C_IDLE` a display operation is accepted as such. -/
theorem accept_of_isDisplay {r : Request} (h : r.isDisplay = true) (s : State) : accept r s = acceptDisplay r s := by
  cases r with
  | init | teardown => cases h
  | writeChar | writeString | loadCustomFont | setBrightness | fullTest | clear => rfl

/-- Settles O41: acceptance in each device state, the first frame's start and end, and the rest of FULL_TEST. -/
theorem controllerTakesTheRowsOfDisplayOperations : Obligations.ControllerTakesTheRowsOfDisplayOperations := by
  intro s r hf hr he hdisplay hw
  refine ⟨fun rest hc hs hq => ?acceptance, fun hq hc hs => ?start, fun hq hc hs => ⟨fun ⟨ms, hms⟩ => ?lampDone, fun hn => ?done⟩,
    fun ms hq => ⟨fun hc hs => ?wait, fun hc hs => ?startSecond, fun hc hs => ?testDone⟩⟩
  case acceptance =>
    rw [row_step hf (.accept r rest hc hs hq hw he hr), accept_of_isDisplay hdisplay]
    refine ⟨fun hd => ?_, fun hd => ?_, fun hd => ?_⟩ <;> simp [acceptDisplay, hd, latch]
  case start =>
    obtain ⟨first, hfirst⟩ := Request.exists_firstCommand hdisplay s.cfg
    exact ⟨first, hfirst, row_step hf (.startFirst r first hc hs hq hfirst he hr)⟩
  case lampDone => exact row_step hf (.testLampDone ms hc hs (hms ▸ hq) he hr)
  case done => exact row_step hf (.frameDone r hc hs hq hdisplay hn he hr)
  case wait =>
    rw [row_step hf (.testWait ms hc hs hq he hr)]
    rfl
  case startSecond => exact row_step hf (.startSecond hc hs he hr)
  case testDone => exact row_step hf (.testDone hc hs he hr)

/-- Settles O42: the release applies the frame, and running its wire command is applying it. -/
theorem stepRunsTheReceivedFrame : Obligations.StepRunsTheReceivedFrame := by
  intro s bytes rest hf hr he hx hres
  rw [row_step hf (.encRelease he hr), encRelease_of_success hf hres hx]
  refine ⟨fun i hm hd => ?decoded, fun h => ?undefined⟩
  case decoded => rw [exec_wire (decodeFrame_isWire hd), hm, Rx.receiveFrom_false, Rx.receive_of_ok hd]
  case undefined =>
    have undefined : s.rx.receiveFrom s.misaddressed bytes = { Rx.initial with undef := true } := by
      rcases h with hm | ⟨e, hd⟩
      · rw [hm, Rx.receiveFrom_true, Rx.undefined_eq]
      · cases hm : s.misaddressed
        · rw [Rx.receiveFrom_false, Rx.receive_of_error hd, Rx.undefined_eq]
        · rw [Rx.receiveFrom_true, Rx.undefined_eq]
    rw [undefined]

/-! ### A call that fails (R130) -/

theorem State.position_of_encoder {s : State} (he : s.enc ≠ .eIdle) : s.position = .encoder s.ctl s.enc := by
  unfold position
  split <;> simp_all

theorem State.position_of_resetSequencer {s : State} (he : s.enc = .eIdle) (hr : s.rs ≠ .rsIdle) :
    s.position = .resetSequencer s.ctl s.rs := by
  unfold position
  split <;> simp_all

theorem State.position_of_controller {s : State} (he : s.enc = .eIdle) (hr : s.rs = .rsIdle) :
    s.position = .controller s.ctl := by
  simp [position, he, hr]

/-- A failing SetPin ends its row with the fault. -/
theorem setPin_andThen_of_failure {s : State} {rest : List Bool} (h : s.results = false :: rest) (p : Pin) (d : Drive)
    (f : State → State) :
    (s.setPin p d).andThen f = (({ s with results := rest } : State).setLevel p .unknown).raise .pinSetError := by
  rw [State.setPin_of_failure h, State.andThen_of_some (State.raise_fault _ _)]

theorem tx_andThen_of_failure {s : State} {rest : List Bool} (ho : s.busOpen = true) (h : s.results = false :: rest)
    (b : Byte) (f : State → State) : (s.tx b).andThen f = ({ s with results := rest } : State).raise .txError := by
  rw [State.tx_of_failure ho h, State.andThen_of_some (State.raise_fault _ _)]

/-- Settles O36: each row that makes a call ends with the call's fault, recorded at the row's position. -/
theorem failingCallFaults : Obligations.FailingCallFaults := by
  intro s rest hf hres
  refine ⟨fun hr he => ?chipSelect, fun he hr => ?resetPin, fun ha => ?enablePin, fun hr ho h => ?transmit⟩
  case chipSelect =>
    have position : s.position = .encoder s.ctl s.enc := State.position_of_encoder (by rcases he with he | he <;> simp [he])
    have row : step s = .next ((({ s with results := rest } : State).setLevel .cs .unknown).raise .pinSetError) := by
      rcases he with he | he
      · rw [row_step hf (.encAssert he hr), encAssert, setPin_andThen_of_failure hres]
      · rw [row_step hf (.encRelease he hr), encRelease, releaseCs, setPin_andThen_of_failure hres,
          State.andThen_of_some (State.raise_fault _ _)]
    rw [row, State.raise, State.setLevel_position, ← position]
    rfl
  case resetPin =>
    have position : s.position = .resetSequencer s.ctl s.rs :=
      State.position_of_resetSequencer he (by rcases hr with hr | hr <;> simp [hr])
    have row : step s = .next ((({ s with results := rest } : State).setLevel .rst .unknown).raise .pinSetError) := by
      rcases hr with hr | hr
      · rw [row_step hf (.rsAssert hr he), rsAssertRow, setPin_andThen_of_failure hres]
      · rw [row_step hf (.rsRelease hr he), rsReleaseRow, setPin_andThen_of_failure hres]
    rw [row, State.raise, State.setLevel_position, ← position]
    rfl
  case enablePin =>
    obtain ⟨hc, hr, he, hs⟩ := (s.atStep_iff .cEn).1 ha
    have position : s.position = .controller .cEn := hc ▸ State.position_of_controller he hr
    rw [row_step hf (.en hc hs he hr), enRow, setPin_andThen_of_failure hres, State.raise, State.setLevel_position, ← position]
    rfl
  case transmit =>
    have position : s.position = .encoder s.ctl s.enc :=
      State.position_of_encoder (by rcases h with he | ⟨he, -⟩ | ⟨he, -⟩ <;> simp [he])
    have row : step s = .next (({ s with results := rest } : State).raise .txError) := by
      rcases h with he | ⟨he, hs, hb⟩ | ⟨he, hs, b, hb, hz⟩
      · rw [row_step hf (.encOpcode he hr), encOpcode, tx_andThen_of_failure ho hres]
      · obtain ⟨b, p, hp⟩ := List.exists_cons_of_ne_nil hb
        rw [row_step hf (.encSingle b p he hs hp hr), encSingle, tx_andThen_of_failure ho hres]
      · rw [row_step hf (.encNext b he hs hb hz hr), encNext, tx_andThen_of_failure ho hres]
    rw [row, State.raise, ← position]
    rfl

end Sys2Proof.Machine

/-! ## The invariants at reset, and progress (R139, log 9, log 12)

A block that meets the invariant stands where some row's conditions hold, but for an ill-typed request at `C_IDLE`. -/

namespace Sys2Proof.Machine

/-- Settles O48: at reset every sequencer rests and the trace is empty. -/
theorem resetMeetsTheInvariants : Obligations.ResetMeetsTheInvariants := by
  refine ⟨?inv, ⟨by decide, fun _ => rfl⟩, ⟨rfl, .inl rfl⟩, fun p => ?levels, ⟨by decide, by decide, fun _ => by decide⟩⟩
  case inv =>
    exact {
      cfgWf := by decide
      faultIffHalt := by decide
      openThenConfigured := by decide
      readyThenOpen := by decide
      destroyedThenClosed := by decide
      positions := fun _ => ⟨rfl, rfl, rfl, rfl, fun _ => ⟨rfl, rfl⟩⟩
      encoder := fun _ => .of_idle rfl
      frame := by unfold State.FrameOk; decide }
  case levels => cases p <;> rfl

/-- A running encoder runs alone. -/
theorem State.PositionOk.rs_of_running {s : State} (h : s.PositionOk) (he : s.enc ≠ .eIdle) : s.rs = .rsIdle := by
  cases hc : s.ctl <;> simp_all [PositionOk]

/-- An encoder with a command in its registers has a row at each position. -/
theorem State.EncoderOk.exists_row {s : State} (h : s.EncoderOk) (he : s.enc ≠ .eIdle) (hr : s.rs = .rsIdle) :
    ∃ t, Row s t := by
  obtain ⟨⟨c, -, hshape, -, hbuf⟩, hpayload⟩ := h he
  cases henc : s.enc with
  | eIdle => exact absurd henc he
  | eAssert => exact ⟨_, .encAssert henc hr⟩
  | eOpcode => exact ⟨_, .encOpcode henc hr⟩
  | eRelease => exact ⟨_, .encRelease henc hr⟩
  | ePayload =>
    cases c with
    | f0 op => exact absurd hshape (hpayload henc).1
    | f1 op b => exact ⟨_, .encSingle b [] henc hshape hbuf hr⟩
    | fn op p =>
      cases hb : s.encBuf[s.encIdx]? with
      | none => exact ⟨_, .encStop henc hshape (.inl hb) hr⟩
      | some b =>
        by_cases hz : b = terminator
        · exact ⟨_, .encStop henc hshape (.inr (hz ▸ hb)) hr⟩
        · exact ⟨_, .encNext b henc hshape hb hz hr⟩

/-- A running Reset Sequencer has a row at each position. -/
theorem exists_row_of_resetting {s : State} (hr : s.rs ≠ .rsIdle) (he : s.enc = .eIdle) : ∃ t, Row s t := by
  cases hrs : s.rs with
  | rsIdle => exact absurd hrs hr
  | rsPre => exact ⟨_, .rsPre hrs he⟩
  | rsAssert => exact ⟨_, .rsAssert hrs he⟩
  | rsHold => exact ⟨_, .rsHold hrs he⟩
  | rsRelease => exact ⟨_, .rsRelease hrs he⟩

/-- At `C_FRAME` the first frame of the latched operation is started, and its end is a row of that operation. -/
theorem exists_row_of_frame {s : State} {r : Request} (hc : s.ctl = .cFrame) (hq : s.req = some r)
    (hd : r.isDisplay = true) (he : s.enc = .eIdle) (hr : s.rs = .rsIdle) : ∃ t, Row s t := by
  cases hs : s.started with
  | false =>
    obtain ⟨first, hfirst⟩ := Request.exists_firstCommand hd s.cfg
    exact ⟨_, .startFirst r first hc hs hq hfirst he hr⟩
  | true =>
    by_cases hn : ∃ ms, r = .fullTest ms
    · obtain ⟨ms, rfl⟩ := hn
      exact ⟨_, .testLampDone ms hc hs hq he hr⟩
    · exact ⟨_, .frameDone r hc hs hq hd (fun ms h => hn ⟨ms, h⟩) he hr⟩

/-- With its sub-sequencers at rest, a controller away from `C_IDLE` has a row. -/
theorem State.PositionOk.exists_controllerRow {s : State} (h : s.PositionOk) (hn : s.ctl ≠ .cIdle) (he : s.enc = .eIdle)
    (hr : s.rs = .rsIdle) : ∃ t, Row s t := by
  cases hc : s.ctl <;> simp only [PositionOk, hc] at h
  case cIdle => exact absurd hc hn
  case cCfg =>
    obtain ⟨-, -, hs, -⟩ := h
    exact ⟨_, .cfg hc hs he hr⟩
  case cOpen =>
    obtain ⟨-, -, hs, -⟩ := h
    exact ⟨_, .openBus hc hs he hr⟩
  case cEn =>
    obtain ⟨-, -, hs, -⟩ := h
    exact ⟨_, .en hc hs he hr⟩
  case cReset =>
    cases hs : s.started with
    | false => exact ⟨_, .startReset hc hs he hr⟩
    | true => exact ⟨_, .resetDone hc hs he hr⟩
  case cDigits =>
    cases hs : s.started with
    | false => exact ⟨_, .startDigits hc hs he hr⟩
    | true => exact ⟨_, .digitsDone hc hs he hr⟩
  case cBright =>
    cases hs : s.started with
    | false => exact ⟨_, .startBright hc hs he hr⟩
    | true => exact ⟨_, .brightDone hc hs he hr⟩
  case cFrame =>
    obtain ⟨-, -, hq, -⟩ := h
    obtain ⟨r, hreq, hd⟩ := (Option.any_eq_true _ _).1 hq
    exact exists_row_of_frame hc hreq hd he hr
  case cWait =>
    obtain ⟨-, -, hs, -, ms, hq⟩ := h
    exact ⟨_, .testWait ms hc hs hq he hr⟩
  case cFrame2 =>
    cases hs : s.started with
    | false => exact ⟨_, .startSecond hc hs he hr⟩
    | true => exact ⟨_, .testDone hc hs he hr⟩

/-- An ill-typed request next is refused by the step. -/
theorem step_of_ill_typed {s : State} {r : Request} {rest : List Request} (hf : s.fault = none) (hi : s.idle = true)
    (hq : s.calls = r :: rest) (hw : r.wf = false) : step s = .refused .badArgument := by
  rw [step_of_request hf hi hq, request_of_ill_typed (by exact hf) (by exact hi) hw]

/-- Settles O50: a running sub-sequencer has a row, otherwise the controller has one, or waits for a well-typed request. -/
theorem invariantBlockIsNeverStuck : Obligations.InvariantBlockIsNeverStuck := by
  intro s h
  cases hf : s.fault with
  | some f => exact .inr (.inr ⟨f, rfl, step_of_halted hf⟩)
  | none =>
    have hp := h.positions hf
    have ofRow : (∃ t, Row s t) → ∃ t, step s = .next t := fun ⟨t, row⟩ => ⟨t, row_step hf row⟩
    by_cases he : s.enc = .eIdle
    case neg => exact .inl (ofRow ((h.encoder hf).exists_row he (hp.rs_of_running he)))
    by_cases hr : s.rs = .rsIdle
    case neg => exact .inl (ofRow (exists_row_of_resetting hr he))
    by_cases hc : s.ctl = .cIdle
    case neg => exact .inl (ofRow (hp.exists_controllerRow hc he hr))
    have hs : s.started = false := by
      simp only [State.PositionOk, hc] at hp
      obtain ⟨-, -, hs, -⟩ := hp
      exact hs
    cases hq : s.calls with
    | nil => exact .inl (ofRow ⟨_, .wait hc hs hq he hr⟩)
    | cons r rest =>
      cases hw : r.wf with
      | true => exact .inl (ofRow ⟨_, .accept r rest hc hs hq hw he hr⟩)
      | false => exact .inr (.inl ⟨rfl, hc, ⟨r, rest, rfl, hw⟩, step_of_ill_typed hf (s.idle_iff.2 ⟨hc, hr, he, hs⟩) hq hw⟩)

end Sys2Proof.Machine

/-! ## One sequencer at a time, and the device state (R24, R28, R84, R150)

Each is read off the effects of a step. -/

namespace Sys2Proof.Machine

/-- Settles O45: an effect of the controller leaves the sub-sequencers or starts one of them, and an effect of a sub-sequencer
leaves the rest. -/
theorem atMostOneSequencerMoves : Obligations.AtMostOneSequencerMoves := by
  intro s t h hft
  obtain ⟨hf, he⟩ := step_effect h
  cases he with
  | initDestroyed | displayDestroyed | displayNotReady | cfgFails | openFails | enFails | rsAssertFails | rsReleaseFails
  | encAssertFails | txFails | txClosed | encReleaseFails => simp at hft
  | wait | initReady | initAccepted | teardownOpen | teardownClosed | displayAccepted | cfg | openBus | en | resetDone
  | digitsDone | brightDone | testLampDone | frameDone | testWait | testDone =>
    simp [‹s.enc = .eIdle›, ‹s.rs = .rsIdle›]
  | startReset hc hs henc hr => simp [hc, henc, hr]
  | startEncoder c hc hs henc hr => simp [hc, henc, hr]
  | rsPre hr henc | rsAssert hr henc | rsHold hr henc | rsRelease hr henc => simp [hr, henc]
  | encAssert henc hr | encOpcodeAlone henc hr | encOpcode henc hr | encSingle b p henc hs hb hr
  | encNext b henc hs hb hz hr | encStop henc hs hb hr | encRelease henc hr => simp [sent, henc, hr]

/-- Settles O46: only teardown and the end of bring-up write the device state. -/
theorem deviceStateMovesOnlyForward : Obligations.DeviceStateMovesOnlyForward := by
  intro s t hi h
  obtain ⟨hf, he⟩ := step_effect h
  cases he with
  | brightDone hc =>
    have hp := hi.positions hf
    simp only [State.PositionOk, hc] at hp
    obtain ⟨-, -, -, hd, -⟩ := hp
    exact .inr (.inl ⟨hd, rfl⟩)
  | teardownOpen | teardownClosed =>
    cases hd : s.dev with
    | uninitialized => exact .inr (.inr ⟨.inl rfl, rfl⟩)
    | ready => exact .inr (.inr ⟨.inr rfl, rfl⟩)
    | destroyed => exact .inl rfl
  | _ => exact .inl (by simp [sent])

/-- Settles O55: of the events that steps emit, only that of `C_EN` is of the enable pin. -/
theorem onlyBringUpDrivesTheEnablePin : Obligations.OnlyBringUpDrivesTheEnablePin := by
  intro s t d h htrace
  obtain ⟨-, he⟩ := step_effect h
  cases he with
  | en hc =>
    have event : Event.pin .en .high = .pin .en d := by simpa using htrace
    cases event
    exact ⟨rfl, hc⟩
  | _ => simp [sent] at htrace

end Sys2Proof.Machine

/-! ## The recorded levels (R25, R130, R137, R156)

A row that drives a pin records the level and emits its event; where the call fails the position of the fault tells the pin. -/

namespace Sys2Proof.Machine

@[simp] theorem lastDriven_append_pin (p q : Pin) (d : Drive) (trace : List Event) :
    lastDriven p (trace ++ [.pin q d]) = if q = p then .driven d else lastDriven p trace := by
  simp [lastDriven]

@[simp] theorem lastDriven_append_other {e : Event} (h : ∀ q d, e ≠ .pin q d) (p : Pin) (trace : List Event) :
    lastDriven p (trace ++ [e]) = lastDriven p trace := by
  cases e with
  | pin q d => exact absurd rfl (h q d)
  | cfgPins | busOpen | busClose | tx | sleep => simp [lastDriven]

theorem State.failedPin_of_none {s : State} (h : s.fault = none) : s.failedPin = none := by
  simp [failedPin, h]

/-- A fault of another kind is of no pin. -/
theorem State.failedPin_raise {k : FaultKind} (h : k ≠ .pinSetError) (s : State) : (s.raise k).failedPin = none := by
  cases k with
  | pinSetError => exact absurd rfl h
  | fatalPinConfig | fatalBusOpen | notReady | useAfterTeardown | txError => rfl

theorem State.LevelsOk.level {s : State} (h : s.LevelsOk) (hf : s.fault = none) (p : Pin) :
    s.level p = lastDriven p s.trace := by
  rw [h p, State.failedPin_of_none hf, if_neg (by simp)]

/-- Without a failed pin every level is the one last driven. -/
theorem State.LevelsOk.of_level {t : State} (hn : t.failedPin = none) (h : ∀ p, t.level p = lastDriven p t.trace) :
    t.LevelsOk := by
  intro p
  rw [hn, if_neg (by simp), h p]

/-- A failing SetPin leaves its own pin unknown and the others as they were. -/
theorem State.LevelsOk.of_failed {s t : State} (h : s.LevelsOk) (hf : s.fault = none) {q : Pin}
    (hq : t.failedPin = some q) (ht : t.trace = s.trace) (hl : ∀ p, t.level p = if p = q then .unknown else s.level p) :
    t.LevelsOk := by
  intro p
  rw [hl p, hq, ht, h.level hf p]
  by_cases hp : p = q
  · rw [if_pos hp, if_pos (congrArg some hp.symm)]
  · rw [if_neg hp, if_neg fun h => hp (Option.some.inj h).symm]

theorem Effect.keeps_levels {s t : State} (hf : s.fault = none) (h : s.LevelsOk) (he : Effect s t) : t.LevelsOk := by
  have level := h.level hf
  cases he with
  | initDestroyed | displayDestroyed | displayNotReady | cfgFails | openFails | txFails | txClosed =>
    refine .of_level (State.failedPin_raise (by simp) _) fun p => ?_
    cases p <;> simp [State.level, ← level]
  | enFails hc hs henc hr =>
    refine h.of_failed hf (q := .en) ?_ (by simp) fun p => ?_
    · simp [State.failedPin, State.raise, State.position, henc, hr]
    · cases p <;> simp [State.level]
  | rsAssertFails hr henc | rsReleaseFails hr henc =>
    refine h.of_failed hf (q := .rst) ?_ (by simp) fun p => ?_
    · simp [State.failedPin, State.raise, State.position, henc, hr]
    · cases p <;> simp [State.level]
  | encAssertFails henc hr | encReleaseFails henc hr =>
    refine h.of_failed hf (q := .cs) ?_ (by simp) fun p => ?_
    · simp [State.failedPin, State.raise, State.position, henc, hr]
    · cases p <;> simp [State.level]
  | _ =>
    refine .of_level (State.failedPin_of_none (by simpa [sent] using hf)) fun p => ?_
    cases p <;> simp [State.level, sent, ← level]

/-- Settles O53: each effect records the level that its event drives. -/
theorem stepKeepsRecordedLevels : Obligations.StepKeepsRecordedLevels := by
  intro s t h hstep
  obtain ⟨hf, he⟩ := step_effect hstep
  exact he.keeps_levels hf h

/-- The scan comes back between frames by an event away from chip-select, or by the release. -/
theorem CsScan.event_eq_between {c : CsScan} {e : Event} (h : c.event e = .between) :
    (c = .between ∧ ∀ d, e ≠ .pin .cs d) ∨ e = .pin .cs .high := by
  cases c with
  | broken => cases h
  | between =>
    cases e with
    | pin p d =>
      cases p with
      | cs => cases d <;> cases h
      | rst | en => exact .inl ⟨rfl, by simp⟩
    | tx b => cases h
    | cfgPins | busOpen | busClose | sleep => exact .inl ⟨rfl, by simp⟩
  | inFrame n =>
    cases e with
    | pin p d =>
      cases p with
      | cs =>
        cases d with
        | high => exact .inr rfl
        | low => cases n <;> cases h
      | rst | en => cases n <;> cases h
    | cfgPins | busOpen | busClose | tx | sleep => cases n <;> cases h

/-- A trace that ends between frames has driven chip-select high last, if ever. -/
theorem lastDriven_cs_of_between (trace : List Event) (h : csScan trace = .between) :
    Event.pin .cs .low ∈ trace → lastDriven .cs trace = .driven .high := by
  induction trace using List.reverseRecOn with
  | nil => intro hmem; cases hmem
  | append_singleton trace e ih =>
    rw [csScan_append] at h
    intro hmem
    rcases CsScan.event_eq_between h with ⟨hscan, hne⟩ | rfl
    · have before : Event.pin .cs .low ∈ trace := by simpa [(hne .low).symm] using hmem
      rw [← ih hscan before]
      cases e with
      | pin q d => exact (lastDriven_append_pin _ _ _ _).trans (if_neg fun hq : q = .cs => hne d (hq ▸ rfl))
      | cfgPins | busOpen | busClose | tx | sleep => exact lastDriven_append_other (by simp) _ _
    · simp

/-- Settles O57: at rest the scan stands between frames, and the recorded level is the one last driven. -/
theorem finalStateHasReleasedEveryFrame : Obligations.FinalStateHasReleasedEveryFrame := by
  intro s hd hl ⟨hf, _, _, he, _⟩
  have scan := hd.scan hf
  rw [he] at scan
  exact ⟨scan, fun hmem => (hl.level hf .cs).trans (lastDriven_cs_of_between s.trace scan hmem)⟩

end Sys2Proof.Machine

/-! ## Operations as steps (R100, R109, R110; log 20)

The parts of an operation are rows, so an operation is reached by the steps that take them. `Reaches` says so of a part together
with what holds where it ends without a fault; the rule for `runAll` then gives a whole operation from its parts, and a fault
anywhere ends both. -/

namespace Sys2Proof.Machine

/-! ### Reaching a state -/

/-- A step that leaves the controller away from `C_IDLE`. -/
def BusyStep (a b : State) : Prop := step a = .next b ∧ b.ctl ≠ .cIdle

/-- Steps lead from `s` to `t` with the controller away from `C_IDLE`, and `P` holds of `t` unless it is a fault. -/
def Reaches (P : State → Prop) (s t : State) : Prop := Relation.ReflTransGen BusyStep s t ∧ (t.fault = none → P t)

/-- The same with a last step that may come to `C_IDLE`: how a whole operation ends. -/
def Ends (P : State → Prop) (s t : State) : Prop :=
  (∃ u, Relation.ReflTransGen BusyStep s u ∧ step u = .next t) ∧ (t.fault = none → P t)

theorem Reaches.row {P : State → Prop} {s t : State} (hf : s.fault = none) (h : Row s t) (hc : t.ctl ≠ .cIdle)
    (hp : t.fault = none → P t) : Reaches P s t :=
  ⟨.single ⟨row_step hf h, hc⟩, hp⟩

theorem Reaches.row_eq {s t : State} (hf : s.fault = none) (h : Row s t) (hc : t.ctl ≠ .cIdle) :
    Reaches (fun u => u = t) s t :=
  .row hf h hc fun _ => rfl

/-- A part that is reached, and the parts after it. -/
theorem Reaches.runAll {P Q : State → Prop} {s t : State} {fs : List (State → State)} (h : Reaches P s t)
    (hfs : ∀ u, u.fault = none → P u → Reaches Q u (u.runAll fs)) : Reaches Q s (t.runAll fs) := by
  obtain ⟨path, hp⟩ := h
  cases hf : t.fault with
  | some r =>
    rw [State.runAll_of_some hf]
    exact ⟨path, fun hn => absurd (hf.symm.trans hn) (by simp)⟩
  | none =>
    obtain ⟨path', hq⟩ := hfs t hf (hp hf)
    exact ⟨path.trans path', hq⟩

theorem Reaches.cons {P Q : State → Prop} {s : State} {f : State → State} {fs : List (State → State)} (hs : s.fault = none)
    (h : Reaches P s (f s)) (hfs : ∀ u, u.fault = none → P u → Reaches Q u (u.runAll fs)) :
    Reaches Q s (s.runAll (f :: fs)) := by
  rw [State.runAll_step hs]
  exact h.runAll hfs

theorem Reaches.last {P : State → Prop} {s : State} {f : State → State} (hs : s.fault = none) (h : Reaches P s (f s)) :
    Reaches P s (s.runAll [f]) := by
  rw [State.runAll_step hs]
  exact h

theorem Reaches.andThen {P Q : State → Prop} {s t : State} {f : State → State} (h : Reaches P s t)
    (hg : ∀ u, u.fault = none → P u → Reaches Q u (f u)) : Reaches Q s (t.andThen f) :=
  h.runAll (fs := [f]) fun u hf hp => .last hf (hg u hf hp)

/-- The last row of an operation. -/
theorem Ends.row {P : State → Prop} {s t : State} (hf : s.fault = none) (h : Row s t) (hp : t.fault = none → P t) :
    Ends P s t :=
  ⟨⟨s, .refl, row_step hf h⟩, hp⟩

/-- An operation ends with its last part, or with the fault of an earlier one. -/
theorem Ends.runAll {P Q : State → Prop} {s t : State} {fs : List (State → State)} (hs : s.fault = none)
    (h : Reaches P s t) (hfs : ∀ u, u.fault = none → P u → Ends Q u (u.runAll fs)) : Ends Q s (t.runAll fs) := by
  obtain ⟨path, hp⟩ := h
  cases hf : t.fault with
  | none =>
    obtain ⟨⟨u, path', last⟩, hq⟩ := hfs t hf (hp hf)
    exact ⟨⟨u, path.trans path', last⟩, hq⟩
  | some r =>
    rw [State.runAll_of_some hf]
    refine ⟨?_, fun hn => absurd (hf.symm.trans hn) (by simp)⟩
    rcases Relation.ReflTransGen.cases_tail path with rfl | ⟨u, path', last, -⟩
    · simp [hs] at hf
    · exact ⟨u, path', last⟩

theorem Ends.cons {P Q : State → Prop} {s : State} {f : State → State} {fs : List (State → State)} (hs : s.fault = none)
    (h : Reaches P s (f s)) (hfs : ∀ u, u.fault = none → P u → Ends Q u (u.runAll fs)) : Ends Q s (s.runAll (f :: fs)) := by
  rw [State.runAll_step hs]
  exact Ends.runAll hs h hfs

theorem Ends.last {P : State → Prop} {s : State} {f : State → State} (hs : s.fault = none) (h : Ends P s (f s)) :
    Ends P s (s.runAll [f]) := by
  rw [State.runAll_step hs]
  exact h

/-! ### A frame -/

/-- `t` is inside the frame of `c` that was begun at `s`, and `bytes` have been sent. -/
structure Sending (c : Command) (s t : State) (bytes : List Byte) : Prop where
  keeps : EncoderKeeps s t
  fault : t.fault = none
  ctl : t.ctl = s.ctl
  started : t.started = true
  shape : t.encShape = c.shape
  op : t.encOp = c.op
  buf : t.encBuf = c.payload
  trace : t.trace = s.trace ++ .pin .cs .low :: bytes.map Event.tx
  rx : t.rx = s.rx
  rxFrame : t.rxFrame = some bytes

/-- The frame of `c` begun at `s` has been sent and received. -/
structure FrameSent (c : Command) (s t : State) : Prop where
  keeps : EncoderKeeps s t
  ctl : t.ctl = s.ctl
  started : t.started = true
  enc : t.enc = .eIdle
  trace : t.trace = s.trace ++ frameEvents c.bytes
  rx : t.rx = s.rx.receiveFrom s.misaddressed c.bytes

/-- Where the encoder and its index stand is not part of what has been sent. -/
theorem Sending.move {c : Command} {s t : State} {bytes : List Byte} (h : Sending c s t bytes) (e : Enc) (i : Nat) :
    Sending c s { t with enc := e, encIdx := i } bytes :=
  ⟨h.keeps.after ⟨rfl, rfl, rfl, rfl, rfl, rfl, rfl, rfl, rfl⟩, h.fault, h.ctl, h.started, h.shape, h.op, h.buf, h.trace,
    h.rx, h.rxFrame⟩

theorem Sending.sent {c : Command} {s t : State} {bytes : List Byte} (h : Sending c s t bytes) (b : Byte) :
    Sending c s (sent b t) (bytes ++ [b]) where
  keeps := h.keeps.after (by constructor <;> simp [Machine.sent])
  fault := by simp [Machine.sent, h.fault]
  ctl := by simp [Machine.sent, h.ctl]
  started := by simp [Machine.sent, h.started]
  shape := by simp [Machine.sent, h.shape]
  op := by simp [Machine.sent, h.op]
  buf := by simp [Machine.sent, h.buf]
  trace := by simp [Machine.sent, h.trace]
  rx := by simp [Machine.sent, h.rx]
  rxFrame := by simp [Machine.sent, h.rxFrame]

/-- A row that transmits reaches what it writes after its byte, or the fault. -/
theorem Sending.txRow {c : Command} {s t : State} {bytes : List Byte} {b : Byte} {f : State → State} {P : State → Prop}
    (h : Sending c s t bytes) (hrow : Row t ((t.tx b).andThen f)) (hctl : (f (Machine.sent b t)).ctl ≠ .cIdle)
    (hp : P (f (Machine.sent b t))) : Reaches P t ((t.tx b).andThen f) := by
  refine .row h.fault hrow ?_ fun hf => ?_ <;>
    rcases tx_andThen_cases b h.fault f with ⟨-, e⟩ | ⟨-, e⟩ | ⟨-, e⟩ <;> simp_all

theorem encAssert_reaches {c : Command} {s : State} (hf : s.fault = none) (hr : s.rs = .rsIdle) (hc : s.ctl ≠ .cIdle) :
    Reaches (fun t => Sending c s t [] ∧ t.enc = .eOpcode) (startEncoder c s) (encAssert (startEncoder c s)) := by
  have row : Row (startEncoder c s) (encAssert (startEncoder c s)) := .encAssert rfl hr
  rcases encAssert_cases (s := startEncoder c s) hf with e | e
  · refine .row hf row (by rw [e]; simpa [startEncoder] using hc) fun _ => ?_
    rw [e]
    exact ⟨{
      keeps := by constructor <;> simp [startEncoder]
      fault := by simpa [startEncoder] using hf
      ctl := by simp [startEncoder]
      started := by simp [startEncoder]
      shape := by simp [startEncoder]
      op := by simp [startEncoder]
      buf := by simp [startEncoder]
      trace := by simp [startEncoder]
      rx := by simp [startEncoder]
      rxFrame := rfl }, rfl⟩
  · exact .row hf row (by simp [e]) (by simp [e])

/-- Where the encoder stands after the opcode of `c`: F0 has no payload (R74). -/
def Command.AfterOpcode (c : Command) (t : State) : Prop :=
  if c.shape = .f0 then t.enc = .eRelease else t.enc = .ePayload ∧ t.encIdx = 0

/-- The opcode is sent; F0 goes on to its release and the other shapes to their payload. -/
theorem Sending.encOpcode_reaches {c : Command} {s t : State} (h : Sending c s t []) (he : t.enc = .eOpcode)
    (hr : s.rs = .rsIdle) (hc : s.ctl ≠ .cIdle) :
    Reaches (fun u => Sending c s u [c.op] ∧ c.AfterOpcode u) t (encOpcode t) := by
  have hsent := h.sent t.encOp
  rw [h.op] at hsent
  have row : Row t (encOpcode t) := .encOpcode he (h.keeps.rs.trans hr)
  have ctl : (afterOpcode (Machine.sent t.encOp t)).ctl ≠ .cIdle := by
    unfold afterOpcode
    split <;> simpa [Machine.sent, h.ctl] using hc
  refine h.txRow row ctl ?_
  rw [h.op, Command.AfterOpcode]
  by_cases hs : c.shape = .f0
  · rw [afterOpcode_f0 (hsent.shape.trans hs), if_pos hs]
    exact ⟨hsent.move _ _, rfl⟩
  · rw [afterOpcode_payload (fun hs' => hs (hsent.shape.symm.trans hs')), if_neg hs]
    exact ⟨hsent.move _ _, rfl, rfl⟩

/-- The byte of F1 is sent (R72). -/
theorem Sending.encSingle_reaches {op b : Byte} {s t : State} {bytes : List Byte} (h : Sending (.f1 op b) s t bytes)
    (he : t.enc = .ePayload) (hr : s.rs = .rsIdle) (hc : s.ctl ≠ .cIdle) :
    Reaches (fun u => Sending (.f1 op b) s u (bytes ++ [b]) ∧ u.enc = .eRelease) t (encSingle b t) :=
  h.txRow (.encSingle b [] he h.shape h.buf (h.keeps.rs.trans hr)) (by simpa [Machine.sent, h.ctl] using hc)
    ⟨(h.sent b).move _ _, rfl⟩

/-- The payload of FN has ended, or a zero byte stands next: nothing is sent (R73). -/
theorem Sending.encStop_reaches {op : Byte} {p : List Byte} {s t : State} {bytes : List Byte}
    (h : Sending (.fn op p) s t bytes) (he : t.enc = .ePayload) (hr : s.rs = .rsIdle) (hc : s.ctl ≠ .cIdle)
    (ended : t.encBuf[t.encIdx]? = none ∨ t.encBuf[t.encIdx]? = some terminator) :
    Reaches (fun u => Sending (.fn op p) s u bytes ∧ u.enc = .eRelease) t (encStop t) :=
  .row h.fault (.encStop he h.shape ended (h.keeps.rs.trans hr)) (fun hi => hc (h.ctl.symm.trans hi))
    fun _ => ⟨h.move .eRelease t.encIdx, rfl⟩

/-- The loop of FN sends what is left of the payload up to the first zero (R73). -/
theorem Sending.sendUntilZero_reaches {op : Byte} {p : List Byte} {s : State} (hr : s.rs = .rsIdle) (hc : s.ctl ≠ .cIdle) :
    ∀ (left : List Byte) (t : State) (bytes : List Byte), Sending (.fn op p) s t bytes → t.enc = .ePayload →
      t.encBuf.drop t.encIdx = left →
      Reaches (fun u => Sending (.fn op p) s u (bytes ++ untilZero left) ∧ u.enc = .eRelease) t (sendUntilZero left t) := by
  intro left
  induction left with
  | nil =>
    intro t bytes h he hleft
    have ended : t.encBuf[t.encIdx]? = none := List.getElem?_eq_none (List.drop_eq_nil_iff.1 hleft)
    rw [untilZero_nil, List.append_nil]
    exact h.encStop_reaches he hr hc (.inl ended)
  | cons b left ih =>
    intro t bytes h he hleft
    have here : t.encBuf[t.encIdx]? = some b := by
      rw [← List.head?_drop, hleft]; rfl
    by_cases hz : b = terminator
    · rw [sendUntilZero, if_pos hz, hz, untilZero_cons_zero, List.append_nil]
      exact h.encStop_reaches he hr hc (.inr (hz ▸ here))
    · rw [sendUntilZero, if_neg hz, untilZero_cons hz]
      have next : Reaches (fun u => Sending (.fn op p) s u (bytes ++ [b]) ∧ u.enc = .ePayload ∧ u.encBuf.drop u.encIdx = left)
          t (encNext b t) := by
        refine h.txRow (.encNext b he h.shape here hz (h.keeps.rs.trans hr)) (by simpa [Machine.sent, h.ctl] using hc) ?_
        refine ⟨(h.sent b).move _ _, by simpa [Machine.sent] using he, ?_⟩
        have tail : t.encBuf.drop (t.encIdx + 1) = left := by rw [← List.tail_drop, hleft]; rfl
        simpa [Machine.sent] using tail
      refine next.andThen fun u _ ⟨hsending, henc, hdrop⟩ => ?_
      simpa using ih u _ hsending henc hdrop

/-- The frame ends with its release, and the observer has its bytes. -/
theorem Sending.encRelease_reaches {c : Command} {s t : State} (h : Sending c s t c.bytes) (he : t.enc = .eRelease)
    (hr : s.rs = .rsIdle) (hc : s.ctl ≠ .cIdle) : Reaches (FrameSent c s) t (encRelease t) := by
  have row : Row t (encRelease t) := .encRelease he (h.keeps.rs.trans hr)
  have misaddressed : t.misaddressed = s.misaddressed := by
    rw [State.misaddressed, State.misaddressed, h.ctl, h.keeps.req, h.keeps.cfg]
  rcases encRelease_cases h.fault with e | e
  · refine .row h.fault row (by simpa [e, h.ctl] using hc) fun _ => ?_
    rw [e]
    exact {
      keeps := h.keeps.after (by constructor <;> simp)
      ctl := by simp [h.ctl]
      started := by simp [h.started]
      enc := rfl
      trace := by simp [h.trace, frameEvents]
      rx := by simp [h.rxFrame, h.rx, misaddressed] }
  · exact .row h.fault row (by simp [e]) (by simp [e])

/-- The rows after the opcode send the rest of the command's bytes. -/
theorem Sending.sendPayload_reaches {c : Command} {s t : State} (h : Sending c s t [c.op])
    (he : c.AfterOpcode t) (hr : s.rs = .rsIdle) (hc : s.ctl ≠ .cIdle) :
    Reaches (fun u => Sending c s u c.bytes ∧ u.enc = .eRelease) t (t.runAll (sendPayload c)) := by
  cases c with
  | f0 op => exact ⟨.refl, fun _ => ⟨h, he⟩⟩
  | f1 op b => exact .last h.fault (h.encSingle_reaches he.1 hr hc)
  | fn op p =>
    obtain ⟨he, hidx⟩ := he
    refine .last h.fault (Sending.sendUntilZero_reaches hr hc p t _ h he ?_)
    rw [hidx, h.buf]
    rfl

/-- A frame that the controller starts away from `C_IDLE` is reached by steps; without a fault it is sent and received. -/
theorem frame_reaches {c : Command} {s : State} (hf : s.fault = none) (hstart : step s = .next (startEncoder c s))
    (hc : s.ctl ≠ .cIdle) (hr : s.rs = .rsIdle) : Reaches (FrameSent c s) s (frame c s) := by
  have started : Reaches (fun t => t = startEncoder c s) s (startEncoder c s) := ⟨.single ⟨hstart, hc⟩, fun _ => rfl⟩
  rw [frame, State.runAll_append]
  refine Reaches.runAll (P := fun u => Sending c s u c.bytes ∧ u.enc = .eRelease) ?_ fun u hfu ⟨hsending, he⟩ =>
    .last hfu (hsending.encRelease_reaches he hr hc)
  rw [State.runAll_append]
  refine Reaches.runAll (P := fun u => Sending c s u [c.op] ∧ c.AfterOpcode u) ?_ fun u _ ⟨hsending, he⟩ =>
    hsending.sendPayload_reaches he hr hc
  refine .cons hf started fun t hft ht => ?_
  subst ht
  exact .cons hft (encAssert_reaches hf hr hc) fun u hfu ⟨hsending, he⟩ => .last hfu (hsending.encOpcode_reaches he hr hc)

end Sys2Proof.Machine

/-! ## The requested operation is run by the sequencers (R89, R100, R109, R110; log 20)

Each operation from its acceptance on: a display operation is its frames, INIT is bring-up, and TEARDOWN and the refusals are one
step. -/

namespace Sys2Proof.Machine

/-! ### Display operations -/

/-- Acceptance takes a display operation to `C_FRAME`, or raises its fault. -/
theorem acceptDisplay_reaches {s : State} {r : Request} {rest : List Request} (hf : s.fault = none) (hi : s.idle = true)
    (hq : s.calls = r :: rest) (hw : r.wf = true) (hd : r.isDisplay = true) :
    Reaches (fun t => t = { s with calls := rest, req := some r, ctl := .cFrame }) s
      (acceptDisplay r { s with calls := rest }) := by
  obtain ⟨hc, hr, he, hs⟩ := s.idle_iff.1 hi
  have row := accept_of_isDisplay hd { s with calls := rest } ▸ Row.accept r rest hc hs hq hw he hr
  rcases s.dev.cases with hdev | hdev | hdev
  · rw [acceptDisplay_of_destroyed (by exact hdev)] at row ⊢
    exact .row hf row (by simp) (by simp)
  · rw [acceptDisplay_of_uninitialized (by exact hdev)] at row ⊢
    exact .row hf row (by simp) (by simp)
  · rw [acceptDisplay_of_ready (by exact hdev)] at row ⊢
    exact .row_eq hf row (by simp)

/-- The first frame of a display operation at `C_FRAME`. -/
theorem firstFrame_reaches {u : State} {r : Request} {c : Command} (hf : u.fault = none) (ha : u.atStep .cFrame = true)
    (hq : u.req = some r) (hfirst : Request.firstCommand u.cfg r = some c) : Reaches (FrameSent c u) u (frame c u) := by
  obtain ⟨hc, hr, he, hs⟩ := (u.atStep_iff .cFrame).1 ha
  exact frame_reaches hf (row_step hf (.startFirst r c hc hs hq hfirst he hr)) (by simp [hc]) hr

/-- A display operation of one frame is run by steps; without a fault it has sent its frame. -/
theorem displayOp_single_ends {s : State} {r : Request} {rest : List Request} {c : Command} (hf : s.fault = none)
    (hi : s.idle = true) (hq : s.calls = r :: rest) (hw : r.wf = true) (hd : r.isDisplay = true)
    (hfirst : Request.firstCommand s.cfg r = some c) (hn : ∀ ms, r ≠ .fullTest ms) :
    Ends (fun t => t.trace = s.trace ++ frameEvents c.bytes ∧
        t.rx = s.rx.receiveFrom (Request.outOfRange s.cfg r) c.bytes) s
      (({ s with calls := rest } : State).runAll ([acceptDisplay r] ++ [frame c] ++ [opDone])) := by
  obtain ⟨hc, hr, he, hs⟩ := s.idle_iff.1 hi
  simp only [List.cons_append, List.nil_append]
  rw [State.runAll_step (by exact hf)]
  refine Ends.runAll hf (acceptDisplay_reaches hf hi hq hw hd) fun u hfu hu => ?_
  have atFrame : u.atStep .cFrame = true := by
    rw [hu]; exact (State.atStep_iff _ _).2 ⟨rfl, hr, he, hs⟩
  refine .cons hfu (firstFrame_reaches hfu atFrame (by rw [hu]) (by rw [hu]; exact hfirst)) fun t hft hsent => ?_
  subst hu
  refine .last hft (.row hft (.frameDone r hsent.ctl hsent.started hsent.keeps.req hd hn hsent.enc (hsent.keeps.rs.trans hr))
    fun _ => ⟨hsent.trace, hsent.rx.trans ?_⟩)
  simp [State.misaddressed]

/-- FULL_TEST is run by steps; without a fault it has sent its two frames with the wait between. -/
theorem fullTest_ends {s : State} {ms : Nat} {rest : List Request} (hf : s.fault = none) (hi : s.idle = true)
    (hq : s.calls = .fullTest ms :: rest) (hw : (Request.fullTest ms).wf = true) :
    Ends (fun t => t.trace = s.trace ++ (frameEvents [opLampTest] ++ [.sleep ms] ++ frameEvents [opNormal]) ∧
        t.rx = (s.rx.receive [opLampTest]).receive [opNormal]) s
      (({ s with calls := rest } : State).runAll ([acceptDisplay (.fullTest ms)] ++
        [frame lampTestCommand, firstFrameDone, waitRow ms, frame normalCommand] ++ [opDone])) := by
  obtain ⟨hc, hr, he, hs⟩ := s.idle_iff.1 hi
  simp only [List.cons_append, List.nil_append]
  rw [State.runAll_step (by exact hf)]
  refine Ends.runAll hf (acceptDisplay_reaches hf hi hq hw rfl) fun u hfu hu => ?_
  have atFrame : u.atStep .cFrame = true := by
    rw [hu]; exact (State.atStep_iff _ _).2 ⟨rfl, hr, he, hs⟩
  refine .cons hfu (firstFrame_reaches (c := lampTestCommand) hfu atFrame (by rw [hu]) rfl) fun t hft hlamp => ?_
  subst hu
  have hrt : t.rs = .rsIdle := hlamp.keeps.rs.trans hr
  refine .cons hft (.row_eq hft (.testLampDone ms hlamp.ctl hlamp.started hlamp.keeps.req hlamp.enc hrt)
    (by simp [firstFrameDone])) fun v hfv hv => ?_
  subst hv
  refine .cons hfv (.row_eq hfv (.testWait ms rfl rfl hlamp.keeps.req hlamp.enc hrt) (by simp [waitRow])) fun w hfw hw => ?_
  subst hw
  refine .cons hfw (frame_reaches (c := normalCommand) hfw (row_step hfw (.startSecond rfl rfl hlamp.enc hrt))
    (by simp [waitRow]) hrt) fun x hfx hnormal => ?_
  refine .last hfx (.row hfx (.testDone hnormal.ctl hnormal.started hnormal.enc (hnormal.keeps.rs.trans hrt))
    fun _ => ⟨?_, ?_⟩)
  · simp [opDone, hnormal.trace, waitRow, State.sleep, firstFrameDone, hlamp.trace, lampTestCommand, normalCommand,
      Command.bytes]
  · simp [opDone, hnormal.rx, waitRow, State.sleep, firstFrameDone, hlamp.rx, lampTestCommand, normalCommand,
      Command.bytes, State.misaddressed, Request.outOfRange, Rx.onEvent]

/-- A display operation but FULL_TEST is its first frame. -/
theorem exec_single {s : State} {r : Request} {c : Command} (hd : r.isDisplay = true) (hn : ∀ ms, r ≠ .fullTest ms)
    (hfirst : Request.firstCommand s.cfg r = some c) : exec r.toInstr s = displayOp r [frame c] s := by
  cases r with
  | init | teardown => cases hd
  | fullTest ms => exact absurd rfl (hn ms)
  | writeChar | writeString | loadCustomFont | setBrightness | clear => cases hfirst; rfl

theorem exec_fullTest (ms : Nat) (s : State) :
    exec (Request.fullTest ms).toInstr s =
      displayOp (.fullTest ms) [frame lampTestCommand, firstFrameDone, waitRow ms, frame normalCommand] s := rfl

theorem displayOp_taken {s : State} {r : Request} (hf : s.fault = none) (hi : s.idle = true) (hw : r.wf = true)
    (parts : List (State → State)) :
    displayOp r parts s = .next (s.runAll ([acceptDisplay r] ++ parts ++ [opDone])) :=
  request_taken hf hi hw

/-! ### Bring-up -/

/-- The controller waits at `c` for the sub-sequencer it has started; the encoder rests and the Reset Sequencer stands at `r`. -/
def State.Waiting (c : Ctl) (r : Rs) (t : State) : Prop := t.ctl = c ∧ t.started = true ∧ t.enc = .eIdle ∧ t.rs = r

/-- The reset pulse is the rows of the Reset Sequencer. -/
theorem resetPulse_reaches {s : State} (hf : s.fault = none) (ha : s.atStep .cReset = true) :
    Reaches (State.Waiting .cReset .rsIdle) s (resetPulse s) := by
  obtain ⟨hc, hr, he, hs⟩ := (s.atStep_iff .cReset).1 ha
  refine .cons (P := State.Waiting .cReset .rsPre) hf (.row hf (.startReset hc hs he hr) (by simp [startReset, hc])
    fun _ => ⟨hc, rfl, he, rfl⟩) fun t hf ⟨hc, hs, he, hr⟩ => ?_
  refine .cons (P := State.Waiting .cReset .rsAssert) hf (.row hf (.rsPre hr he) (by simp [rsPreRow_eq, hc])
    fun _ => ⟨hc, hs, he, rfl⟩) fun t hf ⟨hc, hs, he, hr⟩ => ?_
  refine .cons (P := State.Waiting .cReset .rsHold) hf (.row hf (.rsAssert hr he) ?_ ?_) fun t hf ⟨hc, hs, he, hr⟩ => ?_
  · rcases rsAssertRow_cases hf with e | e <;> simp [e, hc]
  · rcases rsAssertRow_cases hf with e | e <;> simp [e, State.Waiting, hc, hs, he]
  refine .cons (P := State.Waiting .cReset .rsRelease) hf (.row hf (.rsHold hr he) (by simp [rsHoldRow_eq, hc])
    fun _ => ⟨hc, hs, he, rfl⟩) fun t hf ⟨hc, hs, he, hr⟩ => .last hf (.row hf (.rsRelease hr he) ?_ ?_)
  · rcases rsReleaseRow_cases hf with e | e <;> simp [e, hc]
  · rcases rsReleaseRow_cases hf with e | e <;> simp [e, State.Waiting, hc, hs, he]

theorem FrameSent.waiting {c : Command} {s t : State} (h : FrameSent c s t) (hr : s.rs = .rsIdle) :
    State.Waiting s.ctl .rsIdle t :=
  ⟨h.ctl, h.started, h.enc, h.keeps.rs.trans hr⟩

/-- The digit-count frame of step 5. -/
theorem sendDigits_reaches {s : State} (hf : s.fault = none) (ha : s.atStep .cDigits = true) :
    Reaches (State.Waiting .cDigits .rsIdle) s (sendDigits s) := by
  obtain ⟨hc, hr, he, hs⟩ := (s.atStep_iff .cDigits).1 ha
  obtain ⟨path, hsent⟩ := frame_reaches hf (row_step hf (.startDigits hc hs he hr)) (by simp [hc]) hr
  exact ⟨path, fun hft => hc ▸ (hsent hft).waiting hr⟩

/-- The brightness frame of step 6. -/
theorem sendBrightness_reaches {s : State} (hf : s.fault = none) (ha : s.atStep .cBright = true) :
    Reaches (State.Waiting .cBright .rsIdle) s (sendBrightness s) := by
  obtain ⟨hc, hr, he, hs⟩ := (s.atStep_iff .cBright).1 ha
  obtain ⟨path, hsent⟩ := frame_reaches hf (row_step hf (.startBright hc hs he hr)) (by simp [hc]) hr
  exact ⟨path, fun hft => hc ▸ (hsent hft).waiting hr⟩

/-- Bring-up is run by steps: the six steps of `init()` and the ends of the sub-sequencers. -/
theorem bringUp_ends {s : State} (hf : s.fault = none) (ha : s.atStep .cCfg = true) : Ends (fun _ => True) s (bringUp s) := by
  obtain ⟨hc, hr, he, hs⟩ := (s.atStep_iff .cCfg).1 ha
  refine .cons (P := fun t => t.atStep .cOpen = true) hf (.row hf (.cfg hc hs he hr) ?_ ?_) fun t hf ha => ?_
  · rcases cfgRow_cases hf with e | e <;> simp [e]
  · rcases cfgRow_cases hf with e | e <;> simp [e, State.atStep_iff, hr, he, hs]
  obtain ⟨hc, hr, he, hs⟩ := (t.atStep_iff .cOpen).1 ha
  refine .cons (P := fun t => t.atStep .cEn = true) hf (.row hf (.openBus hc hs he hr) ?_ ?_) fun t hf ha => ?_
  · rcases openRow_cases hf with e | e <;> simp [e]
  · rcases openRow_cases hf with e | e <;> simp [e, State.atStep_iff, hr, he, hs]
  obtain ⟨hc, hr, he, hs⟩ := (t.atStep_iff .cEn).1 ha
  refine .cons (P := fun t => t.atStep .cReset = true) hf (.row hf (.en hc hs he hr) ?_ ?_) fun t hf ha => ?_
  · rcases enRow_cases hf with e | e <;> simp [e]
  · rcases enRow_cases hf with e | e <;> simp [e, State.atStep_iff, hr, he, hs]
  refine .cons hf (resetPulse_reaches hf ha) fun t hf ⟨hc, hs, he, hr⟩ => ?_
  refine .cons (P := fun t => t.atStep .cDigits = true) hf (.row hf (.resetDone hc hs he hr) (by simp [resetDone])
    fun _ => (State.atStep_iff _ _).2 ⟨rfl, hr, he, rfl⟩) fun t hf ha => ?_
  refine .cons hf (sendDigits_reaches hf ha) fun t hf ⟨hc, hs, he, hr⟩ => ?_
  refine .cons (P := fun t => t.atStep .cBright = true) hf (.row hf (.digitsDone hc hs he hr) (by simp [digitsDone])
    fun _ => (State.atStep_iff _ _).2 ⟨rfl, hr, he, rfl⟩) fun t hf ha => ?_
  refine .cons hf (sendBrightness_reaches hf ha) fun t hf ⟨hc, hs, he, hr⟩ => ?_
  exact .last hf (.row hf (.brightDone hc hs he hr) fun _ => trivial)

/-! ### Every request -/

/-- INIT is one step but in Uninitialized, where bring-up follows its acceptance. -/
theorem init_ends {s : State} {rest : List Request} (hf : s.fault = none) (hi : s.idle = true)
    (hq : s.calls = .init :: rest) : Ends (fun _ => True) s (initCall { s with calls := rest }) := by
  obtain ⟨hc, hr, he, hs⟩ := s.idle_iff.1 hi
  have row : Row s (acceptInit { s with calls := rest }) := .accept .init rest hc hs hq rfl he hr
  rcases s.dev.cases with hd | hd | hd
  · have faults := initCall_of_destroyed (s := { s with calls := rest }) hd
    have same : acceptInit { s with calls := rest } = initCall { s with calls := rest } := by
      rw [faults]; simp [acceptInit, hd, latch]
    exact .row hf (same ▸ row) fun _ => trivial
  · rw [acceptInit_of_uninitialized (by exact hd)] at row
    rw [initCall_of_uninitialized (by exact hf) (by exact hd)]
    have atCfg : ({ s with calls := rest, req := some .init, ctl := .cCfg } : State).atStep .cCfg = true :=
      (State.atStep_iff _ _).2 ⟨rfl, hr, he, hs⟩
    exact Ends.runAll hf (.row_eq hf row (by simp)) fun u hfu hu => bringUp_ends hfu (by rw [hu]; exact atCfg)
  · have same : acceptInit { s with calls := rest } = initCall { s with calls := rest } := by
      rw [initCall_of_ready (by exact hf) (by exact hc) (by exact hd)]; simp [acceptInit, hd]
    exact .row hf (same ▸ row) fun _ => trivial

/-- A well-typed request to a block at rest completes, and steps run it to its end. -/
theorem exec_request_ends {s : State} {r : Request} {rest : List Request} (hf : s.fault = none) (hi : s.idle = true)
    (hq : s.calls = r :: rest) (hw : r.wf = true) :
    ∃ t, exec r.toInstr { s with calls := rest } = .next t ∧ Ends (fun _ => True) s t := by
  have taken (f : State → State) : request r f { s with calls := rest } = .next (f { s with calls := rest }) :=
    request_taken hf hi hw
  by_cases hd : r.isDisplay = true
  · by_cases hn : ∃ ms, r = .fullTest ms
    · obtain ⟨ms, rfl⟩ := hn
      obtain ⟨path, -⟩ := fullTest_ends hf hi hq hw
      exact ⟨_, (exec_fullTest ms _).trans (displayOp_taken (by exact hf) (by exact hi) hw _), path, fun _ => trivial⟩
    · obtain ⟨c, hfirst⟩ := Request.exists_firstCommand hd s.cfg
      have hn' : ∀ ms, r ≠ .fullTest ms := fun ms h => hn ⟨ms, h⟩
      obtain ⟨path, -⟩ := displayOp_single_ends hf hi hq hw hd hfirst hn'
      exact ⟨_, (exec_single (s := { s with calls := rest }) hd hn' hfirst).trans
        (displayOp_taken (by exact hf) (by exact hi) hw _), path, fun _ => trivial⟩
  · cases r with
    | init => exact ⟨_, taken initCall, init_ends hf hi hq⟩
    | teardown =>
      obtain ⟨hc, hr, he, hs⟩ := s.idle_iff.1 hi
      exact ⟨_, taken acceptTeardown, .row hf (.accept .teardown rest hc hs hq hw he hr) fun _ => trivial⟩
    | writeChar | writeString | loadCustomFont | setBrightness | fullTest | clear => exact absurd rfl hd

/-! ### Steps as runs -/

theorem run_succ {s t : State} (h : step s = .next t) (k : Nat) :
    Host.Core.run Sys2Proof.core (k + 1) s = Host.Core.run Sys2Proof.core k t := by
  have first : Sys2Proof.core.step s = .next t := h
  simp only [Host.Core.run, first]

theorem run_one (s : State) : Host.Core.run Sys2Proof.core 1 s = step s := by
  have first : Sys2Proof.core.step s = step s := rfl
  simp only [Host.Core.run, first]
  cases step s <;> rfl

/-- A path away from `C_IDLE` and a last step are a run. -/
theorem run_of_busy {s u : State} (path : Relation.ReflTransGen BusyStep s u) :
    ∃ k, 0 < k ∧ Host.Core.run Sys2Proof.core k s = step u ∧
      ∀ j, 0 < j → j < k → ∃ v : State, Host.Core.run Sys2Proof.core j s = .next v ∧ v.ctl ≠ .cIdle := by
  induction path using Relation.ReflTransGen.head_induction_on with
  | refl => exact ⟨1, Nat.one_pos, run_one u, fun j h0 h1 => by omega⟩
  | head hstep _ ih =>
    obtain ⟨hstep, hctl⟩ := hstep
    obtain ⟨k, -, hrun, hbusy⟩ := ih
    refine ⟨k + 1, Nat.succ_pos k, (run_succ hstep k).trans hrun, fun j h0 hj => ?_⟩
    obtain ⟨i, rfl⟩ : ∃ i, j = i + 1 := ⟨j - 1, by omega⟩
    rw [run_succ hstep]
    rcases Nat.eq_zero_or_pos i with rfl | hi
    · exact ⟨_, rfl, hctl⟩
    · exact hbusy i hi (by omega)

/-- Settles O43: a well-typed request is run to its end, and an ill-typed one is refused by the first step. -/
theorem sequencerStepsRunTheRequestedOperation : Obligations.SequencerStepsRunTheRequestedOperation := by
  intro s r rest hf hi hq
  cases hw : r.wf with
  | true =>
    obtain ⟨t, hexec, ⟨u, path, last⟩, -⟩ := exec_request_ends hf hi hq hw
    rw [hexec, ← last]
    exact run_of_busy path
  | false =>
    rw [exec_of_ill_typed (by exact hf) (by exact hi) hw, ← step_of_ill_typed hf hi hq hw]
    exact run_of_busy .refl

end Sys2Proof.Machine

/-! ## What operations keep in every outcome (R31, R111; log 20)

A request that completes is reached by steps, so what every step keeps is kept by its `exec`. -/

namespace Sys2Proof.Machine

theorem Reaches.keeps {P Q : State → Prop} {s t : State} (h : Reaches P s t)
    (hstep : ∀ a b, Q a → step a = .next b → Q b) (hs : Q s) : Q t := by
  obtain ⟨path, -⟩ := h
  induction path with
  | refl => exact hs
  | tail _ hab ih => exact hstep _ _ ih hab.1

theorem Ends.keeps {P Q : State → Prop} {s t : State} (h : Ends P s t)
    (hstep : ∀ a b, Q a → step a = .next b → Q b) (hs : Q s) : Q t := by
  obtain ⟨⟨u, path, last⟩, -⟩ := h
  have hu : Q u := Reaches.keeps (P := fun _ => True) ⟨path, fun _ => trivial⟩ hstep hs
  exact hstep u t hu last

/-- A request that completes was well typed and found the block at rest. -/
theorem accepted_of_exec_next {s t : State} {r : Request} (h : exec r.toInstr s = .next t) :
    s.fault = none ∧ s.idle = true ∧ r.wf = true := by
  obtain ⟨taken, asRequest⟩ := exec_request r s
  rw [asRequest] at h
  rcases request_cases r taken s with ⟨_, _, e⟩ | ⟨_, _, e⟩ | ⟨_, _, _, e⟩ | ⟨hf, hi, hw, e⟩ <;> rw [e] at h <;> cases h
  exact ⟨hf, hi, hw⟩

/-- Placed as the next request, it is run by steps to the same end. -/
theorem exec_next_ends {s t : State} {r : Request} (h : exec r.toInstr s = .next t) :
    Ends (fun _ => True) { s with calls := r :: s.calls } t := by
  obtain ⟨hf, hi, hw⟩ := accepted_of_exec_next h
  obtain ⟨u, hu, ends⟩ := exec_request_ends (s := { s with calls := r :: s.calls }) (by exact hf) (by exact hi) rfl hw
  obtain rfl : t = u := Host.Outcome.next.inj (h.symm.trans hu)
  exact ends

/-! ### The trace and the requests to come -/

/-- The old trace stays at the front. -/
theorem exec_request_trace {s t : State} {r : Request} (h : exec r.toInstr s = .next t) :
    ∃ new, t.trace = s.trace ++ new := by
  refine (exec_next_ends h).keeps (Q := fun u => ∃ new, u.trace = s.trace ++ new) ?_ ⟨[], (List.append_nil _).symm⟩
  rintro a b ⟨new, ha⟩ hstep
  rcases stepEmitsAtMostOneEvent a b hstep with hb | ⟨e, hb⟩
  · exact ⟨new, hb.trans ha⟩
  · exact ⟨new ++ [e], by rw [hb, ha, List.append_assoc]⟩

/-- Away from `C_IDLE` no request is taken. -/
theorem Effect.calls_of_away {s t : State} (h : Effect s t) (hc : s.ctl ≠ .cIdle) : t.calls = s.calls := by
  cases h with
  | initDestroyed | initReady | initAccepted | teardownOpen | teardownClosed | displayDestroyed | displayNotReady
  | displayAccepted => exact absurd ‹_› hc
  | _ => simp [sent]

/-- At rest the next request is taken. -/
theorem Effect.calls_of_idle {s t : State} (h : Effect s t) (hi : s.idle = true) : t.calls = s.calls.tail := by
  obtain ⟨hc, hr, he, hs⟩ := s.idle_iff.1 hi
  cases h <;> simp_all [State.expectedCommand]

/-- A request takes itself from the requests to come, and no other. -/
theorem exec_request_calls {s t : State} {r : Request} (h : exec r.toInstr s = .next t) : t.calls = s.calls := by
  obtain ⟨-, hi, -⟩ := accepted_of_exec_next h
  obtain ⟨⟨u, path, last⟩, -⟩ := exec_next_ends h
  have takes : ∀ a b, (a = { s with calls := r :: s.calls } ∨ (a.calls = s.calls ∧ a.ctl ≠ .cIdle)) → step a = .next b →
      b.calls = s.calls := by
    rintro a b (rfl | ⟨hcalls, hctl⟩) hstep
    · exact (step_effect hstep).2.calls_of_idle hi
    · exact ((step_effect hstep).2.calls_of_away hctl).trans hcalls
  have hu : u = { s with calls := r :: s.calls } ∨ (u.calls = s.calls ∧ u.ctl ≠ .cIdle) := by
    clear last
    induction path with
    | refl => exact .inl rfl
    | tail _ hab ih => exact .inr ⟨takes _ _ ih hab.1, hab.2⟩
  exact takes u t hu last

/-! ### The other fields a display operation leaves -/

/-- A display operation writes `req` beside the fields of the encoder. -/
def DisplayKeeps (s t : State) : Prop := EncoderKeeps { s with req := t.req } t

theorem DisplayKeeps.after {s t u : State} (h : DisplayKeeps s t) (k : DisplayKeeps t u) : DisplayKeeps s u :=
  ⟨k.cfg.trans h.cfg, k.dev.trans h.dev, k.pinsCfg.trans h.pinsCfg, k.busOpen.trans h.busOpen,
    k.lvlRst.trans h.lvlRst, k.lvlEn.trans h.lvlEn, k.rs.trans h.rs, rfl, k.calls.trans h.calls⟩

theorem displayKeeps_frame (c : Command) (s : State) : DisplayKeeps s (frame c s) := by
  have h := encoderKeeps_frame c s
  exact ⟨h.cfg, h.dev, h.pinsCfg, h.busOpen, h.lvlRst, h.lvlEn, h.rs, rfl, h.calls⟩

theorem displayKeeps_acceptDisplay (r : Request) (s : State) : DisplayKeeps s (acceptDisplay r s) := by
  unfold acceptDisplay
  split <;> constructor <;> rfl

/-- The rows of a display operation outside its frames. -/
theorem displayKeeps_row (s : State) :
    DisplayKeeps s (opDone s) ∧ DisplayKeeps s (firstFrameDone s) ∧ ∀ ms, DisplayKeeps s (waitRow ms s) :=
  ⟨by constructor <;> rfl, by constructor <;> rfl, fun ms => by constructor <;> rfl⟩

/-- A display operation of such parts. -/
theorem displayKeeps_displayOp {r : Request} {parts : List (State → State)} (hp : ∀ f ∈ parts, ∀ u, DisplayKeeps u (f u))
    {s t : State} (h : displayOp r parts s = .next t) : DisplayKeeps s t := by
  rw [request_next h]
  refine State.runAll_keeps (P := DisplayKeeps s) (fun f hf u hu => hu.after ?_) s (by constructor <;> rfl)
  simp only [List.mem_append, List.mem_singleton] at hf
  rcases hf with (rfl | hf) | rfl
  · exact displayKeeps_acceptDisplay r u
  · exact hp f hf u
  · exact (displayKeeps_row u).1

theorem displayKeeps_exec {s t : State} {r : Request} (hd : r.isDisplay = true) (h : exec r.toInstr s = .next t) :
    DisplayKeeps s t := by
  by_cases hn : ∃ ms, r = .fullTest ms
  · obtain ⟨ms, rfl⟩ := hn
    refine displayKeeps_displayOp (fun f hf u => ?_) h
    simp only [List.mem_cons, List.not_mem_nil, or_false] at hf
    obtain ⟨-, lampDone, wait⟩ := displayKeeps_row u
    rcases hf with rfl | rfl | rfl | rfl
    · exact displayKeeps_frame _ u
    · exact lampDone
    · exact wait ms
    · exact displayKeeps_frame _ u
  · obtain ⟨c, hfirst⟩ := Request.exists_firstCommand hd s.cfg
    rw [exec_single hd (fun ms hms => hn ⟨ms, hms⟩) hfirst] at h
    refine displayKeeps_displayOp (fun f hf u => ?_) h
    rw [List.mem_singleton.1 hf]
    exact displayKeeps_frame c u

/-- Settles O25: the parts keep the fields, and the steps keep the trace. -/
theorem displayOperationFrame : Obligations.DisplayOperationFrame := by
  intro s t r hd h
  have k := displayKeeps_exec hd h
  exact ⟨k.cfg, k.dev, k.pinsCfg, k.busOpen, k.lvlRst, k.lvlEn, k.rs, k.calls, exec_request_trace h⟩

/-! ### The fields INIT and its steps leave -/

/-- The fields no row of the Reset Sequencer writes, faults included. -/
structure ResetKeeps (s t : State) : Prop where
  cfg : t.cfg = s.cfg
  dev : t.dev = s.dev
  pinsCfg : t.pinsCfg = s.pinsCfg
  busOpen : t.busOpen = s.busOpen
  lvlCs : t.lvlCs = s.lvlCs
  lvlEn : t.lvlEn = s.lvlEn
  enc : t.enc = s.enc
  encShape : t.encShape = s.encShape
  encOp : t.encOp = s.encOp
  encBuf : t.encBuf = s.encBuf
  encIdx : t.encIdx = s.encIdx
  req : t.req = s.req
  calls : t.calls = s.calls

theorem ResetKeeps.after {s t u : State} (h : ResetKeeps s t) (k : ResetKeeps t u) : ResetKeeps s u :=
  ⟨k.cfg.trans h.cfg, k.dev.trans h.dev, k.pinsCfg.trans h.pinsCfg, k.busOpen.trans h.busOpen, k.lvlCs.trans h.lvlCs,
    k.lvlEn.trans h.lvlEn, k.enc.trans h.enc, k.encShape.trans h.encShape, k.encOp.trans h.encOp, k.encBuf.trans h.encBuf,
    k.encIdx.trans h.encIdx, k.req.trans h.req, k.calls.trans h.calls⟩

/-- Driving the reset pin, and then moving the Reset Sequencer. -/
theorem resetKeeps_setPin_andThen (d : Drive) (r : Rs) (s : State) :
    ResetKeeps s ((s.setPin .rst d).andThen fun t => { t with rs := r }) := by
  have pin : ResetKeeps s (s.setPin .rst d) := by
    rcases s.setPin_cases .rst d with e | e <;> rw [e] <;> constructor <;> simp
  rcases (s.setPin .rst d).andThen_cases fun t => { t with rs := r } with ⟨_, e⟩ | ⟨_, e⟩ <;> rw [e]
  · exact pin.after (by constructor <;> rfl)
  · exact pin

theorem resetKeeps_resetPulse (s : State) : ResetKeeps s (resetPulse s) := by
  refine State.runAll_keeps (P := ResetKeeps s) (fun f hf u hu => hu.after ?_) s (by constructor <;> rfl)
  simp only [List.mem_cons, List.not_mem_nil, or_false] at hf
  rcases hf with rfl | rfl | rfl | rfl | rfl
  · constructor <;> rfl
  · constructor <;> rfl
  · exact resetKeeps_setPin_andThen .low .rsHold u
  · constructor <;> rfl
  · exact resetKeeps_setPin_andThen .high .rsIdle u

/-- Settles O35: INIT as a request, its two frames, and its reset pulse. -/
theorem bringUpFrame : Obligations.BringUpFrame := by
  refine ⟨fun s t h => ?init, fun s t i hi h => ?frames, fun s t h => ?reset⟩
  case init => exact ⟨exec_cfg .init h, exec_request_calls (r := .init) h, exec_request_trace (r := .init) h⟩
  case frames =>
    have k : EncoderKeeps s t := by
      rcases hi with rfl | rfl <;> rw [atItsStep_next h] <;> exact encoderKeeps_frame _ s
    exact ⟨k.cfg, k.dev, k.pinsCfg, k.busOpen, k.lvlRst, k.lvlEn, k.rs, k.req, k.calls⟩
  case reset =>
    rw [atItsStep_next h]
    have k := resetKeeps_resetPulse s
    exact ⟨k.cfg, k.dev, k.pinsCfg, k.busOpen, k.lvlCs, k.lvlEn, k.enc, k.encShape, k.encOp, k.encBuf, k.encIdx, k.req,
      k.calls⟩

end Sys2Proof.Machine

/-! ## The observer's digit count (R111)

Only SET_DIGITS makes the count known, and its payload is at most `0x0F`. -/

namespace Sys2Proof.Machine

theorem Rx.digitsOk_undefined (rx : Rx) : rx.undefined.DigitsOk := fun _ h => by cases h

theorem Rx.digitsOk_forget (rx : Rx) : rx.forget.DigitsOk := fun _ h => by cases h

theorem Rx.digitsOk_whileDefined {effect : Rx → Rx} {rx : Rx} (h : (effect rx).DigitsOk) :
    (rx.whileDefined effect).DigitsOk := by
  rcases Rx.whileDefined_cases effect rx with ⟨_, e⟩ | ⟨_, e⟩ <;> rw [e]
  · exact h
  · exact rx.digitsOk_undefined

theorem Rx.DigitsOk.apply {rx : Rx} (h : rx.DigitsOk) (i : Instr) : (rx.apply i).DigitsOk := by
  cases i with
  | init | initSetDigits | initBrightness | resetSequence | teardown | writeChar | writeString | loadCustomFont
  | setBrightness | fullTest | clear => exact h
  | setBrightnessCmd | normal | lampTest => exact digitsOk_whileDefined h
  | cellWrite p codes =>
    refine digitsOk_whileDefined ?_
    split
    · split
      · exact h
      · exact rx.digitsOk_undefined
    · exact rx.digitsOk_undefined
  | glyphWrite i bitmap =>
    refine digitsOk_whileDefined ?_
    split
    · exact h
    · exact rx.digitsOk_undefined
  | setDigits n =>
    refine digitsOk_whileDefined ?_
    split
    · next hn =>
      intro d hd
      obtain rfl : n.toNat + 1 = d := Option.some.inj hd
      omega
    · exact rx.digitsOk_undefined

theorem Rx.DigitsOk.receiveFrom {rx : Rx} (h : rx.DigitsOk) (m : Bool) (bytes : List Byte) :
    (rx.receiveFrom m bytes).DigitsOk := by
  cases m with
  | true => exact rx.digitsOk_undefined
  | false =>
    rw [Rx.receiveFrom_false]
    cases hd : decodeFrame bytes with
    | ok i => rw [Rx.receive_of_ok hd]; exact h.apply i
    | error e => rw [Rx.receive_of_error hd]; exact rx.digitsOk_undefined

theorem State.digitsOk_raise {s : State} (h : s.rx.DigitsOk) (k : FaultKind) : (s.raise k).rx.DigitsOk := by
  rw [raise_rx]
  split
  · exact s.rx.digitsOk_undefined
  · exact h

theorem Effect.keeps_digits {s t : State} (h : s.rx.DigitsOk) (he : Effect s t) : t.rx.DigitsOk := by
  cases he with
  | initDestroyed | displayDestroyed | displayNotReady | cfgFails | openFails | enFails | rsAssertFails | rsReleaseFails
  | encAssertFails | txFails | txClosed | encReleaseFails => exact State.digitsOk_raise (by simpa using h) _
  | rsAssert => exact s.rx.digitsOk_forget
  | encRelease =>
    cases hx : s.rxFrame with
    | none => simpa [hx] using h
    | some bytes => simpa [hx] using h.receiveFrom s.misaddressed bytes
  | _ => simpa [sent] using h

theorem step_keeps_digits {a b : State} (h : a.rx.DigitsOk) (hstep : step a = .next b) : b.rx.DigitsOk :=
  (step_effect hstep).2.keeps_digits h

/-- A step of bring-up that completes was asked for at its position. -/
theorem atItsStep_accepted {c : Ctl} {effect : State → State} {s t : State} (h : atItsStep c effect s = .next t) :
    s.fault = none ∧ s.atStep c = true := by
  unfold atItsStep at h
  split at h
  · cases h
  · next hf =>
    split at h
    · next ha => exact ⟨hf, ha⟩
    · cases h

theorem atItsStep_keeps_digits {c : Ctl} {effect : State → State} {P : State → Prop}
    (reaches : ∀ s : State, s.fault = none → s.atStep c = true → Reaches P s (effect s)) {s t : State}
    (hs : s.rx.DigitsOk) (h : atItsStep c effect s = .next t) : t.rx.DigitsOk := by
  obtain ⟨hf, ha⟩ := atItsStep_accepted h
  rw [atItsStep_next h]
  exact (reaches s hf ha).keeps (Q := fun u => u.rx.DigitsOk) (fun _ _ => step_keeps_digits) hs

theorem exec_request_keeps_digits (r : Request) {s t : State} (hs : s.rx.DigitsOk) (h : exec r.toInstr s = .next t) :
    t.rx.DigitsOk :=
  (exec_next_ends h).keeps (Q := fun u => u.rx.DigitsOk) (fun _ _ => step_keeps_digits) hs

theorem exec_keeps_digits {i : Instr} {s t : State} (hs : s.rx.DigitsOk) (h : exec i s = .next t) : t.rx.DigitsOk := by
  cases i with
  | init => exact exec_request_keeps_digits .init hs h
  | teardown => exact exec_request_keeps_digits .teardown hs h
  | writeChar position code => exact exec_request_keeps_digits (.writeChar position code) hs h
  | writeString start text => exact exec_request_keeps_digits (.writeString start text) hs h
  | loadCustomFont id data => exact exec_request_keeps_digits (.loadCustomFont id data) hs h
  | setBrightness level => exact exec_request_keeps_digits (.setBrightness level) hs h
  | fullTest ms => exact exec_request_keeps_digits (.fullTest ms) hs h
  | clear => exact exec_request_keeps_digits .clear hs h
  | resetSequence => exact atItsStep_keeps_digits (fun _ => resetPulse_reaches) hs h
  | initSetDigits => exact atItsStep_keeps_digits (fun _ => sendDigits_reaches) hs h
  | initBrightness => exact atItsStep_keeps_digits (fun _ => sendBrightness_reaches) hs h
  | cellWrite | glyphWrite | setDigits | setBrightnessCmd | normal | lampTest =>
    rw [exec_wire rfl] at h
    cases h
    exact hs.apply _

/-- Settles O56: at reset the count is unknown, and steps and operations keep its range. -/
theorem observerDigitCountStaysInRange : Obligations.ObserverDigitCountStaysInRange := by
  refine ⟨fun d h => ?_, fun s t hs => step_keeps_digits hs, fun i s t hs => exec_keeps_digits hs⟩
  cases h

end Sys2Proof.Machine

/-! ## What a display operation without a fault has sent (R61, R123) -/

namespace Sys2Proof.Machine

/-- A display operation of one frame that completes without a fault has sent that frame, and the observer has it. -/
theorem exec_single_sent {s t : State} {r : Request} {c : Command} (hd : r.isDisplay = true) (hn : ∀ ms, r ≠ .fullTest ms)
    (hfirst : Request.firstCommand s.cfg r = some c) (h : exec r.toInstr s = .next t) (hft : t.fault = none) :
    t.trace = s.trace ++ frameEvents c.bytes ∧ t.rx = s.rx.receiveFrom (Request.outOfRange s.cfg r) c.bytes := by
  obtain ⟨hf, hi, hw⟩ := accepted_of_exec_next h
  obtain ⟨-, hsent⟩ := displayOp_single_ends (s := { s with calls := r :: s.calls }) (rest := s.calls) (by exact hf)
    (by exact hi) rfl hw hd (by exact hfirst) hn
  rw [exec_single hd hn hfirst, displayOp_taken hf hi hw] at h
  cases h
  exact hsent hft

/-- FULL_TEST without a fault has sent its two frames with the wait between. -/
theorem exec_fullTest_sent {s t : State} {ms : Nat} (h : exec (Request.fullTest ms).toInstr s = .next t)
    (hft : t.fault = none) :
    t.trace = s.trace ++ (frameEvents [opLampTest] ++ [.sleep ms] ++ frameEvents [opNormal]) ∧
      t.rx = s.rx.lampTest.normal := by
  obtain ⟨hf, hi, hw⟩ := accepted_of_exec_next h
  obtain ⟨-, hsent⟩ := fullTest_ends (s := { s with calls := .fullTest ms :: s.calls }) (rest := s.calls) (by exact hf)
    (by exact hi) rfl hw
  rw [exec_fullTest, displayOp_taken hf hi hw] at h
  cases h
  obtain ⟨htrace, hrx⟩ := hsent hft
  exact ⟨htrace, by rw [hrx, Rx.receive_lampTest, Rx.receive_normal]⟩

/-! ### The frames of the encoding table -/

/-- One event of the scan that `framesOf` makes: the frames so far, and the bytes of the frame it is in. -/
def frameScan (acc : List (List Byte) × Option (List Byte)) (e : Event) : List (List Byte) × Option (List Byte) :=
  match e, acc.2 with
  | .pin .cs .high, some bytes => (acc.1 ++ [bytes], none)
  | _, _ => (acc.1, captureEvent e acc.2)

theorem framesOf_eq (trace : List Event) : framesOf trace = (trace.foldl frameScan ([], none)).1 := rfl

/-- Bytes gather in the frame. -/
theorem frameScan_bytes (bytes : List Byte) (frames : List (List Byte)) (got : List Byte) :
    (bytes.map Event.tx).foldl frameScan (frames, some got) = (frames, some (got ++ bytes)) := by
  induction bytes generalizing got with
  | nil => simp
  | cons b bytes ih =>
    have byte : frameScan (frames, some got) (.tx b) = (frames, some (got ++ [b])) := rfl
    rw [List.map_cons, List.foldl_cons, byte, ih, List.append_assoc, List.singleton_append]

/-- The events of a frame are read back as its bytes. -/
theorem framesOf_frameEvents (bytes : List Byte) : framesOf (frameEvents bytes) = [bytes] := by
  have asserted : frameScan ([], none) (.pin .cs .low) = ([], some []) := rfl
  rw [framesOf_eq, frameEvents, List.append_assoc, List.singleton_append, List.foldl_cons, List.foldl_append, asserted,
    frameScan_bytes]
  rfl

/-- The row of the encoding table of an operation of one frame is that frame (R61). -/
theorem encode_single {cfg : Configuration} {r : Request} {c : Command} (hn : ∀ ms, r ≠ .fullTest ms)
    (hfirst : Request.firstCommand cfg r = some c) : encode cfg r.toInstr = [c.bytes] := by
  cases r with
  | init | teardown => cases hfirst
  | fullTest ms => exact absurd rfl (hn ms)
  | clear =>
    cases hfirst
    rw [bytes_clearCommand]
    rfl
  | writeChar | writeString | loadCustomFont | setBrightness =>
    cases hfirst
    rfl

/-- Settles O26: one frame, or the two of FULL_TEST. -/
theorem displayOperationsSendTheTablesFrames : Obligations.DisplayOperationsSendTheTablesFrames := by
  intro s t r hd _ h hft
  by_cases hn : ∃ ms, r = .fullTest ms
  · obtain ⟨ms, rfl⟩ := hn
    obtain ⟨htrace, -⟩ := exec_fullTest_sent h hft
    exact ⟨_, htrace, rfl⟩
  · obtain ⟨c, hfirst⟩ := Request.exists_firstCommand hd s.cfg
    have hn' : ∀ ms, r ≠ .fullTest ms := fun ms hms => hn ⟨ms, hms⟩
    obtain ⟨htrace, -⟩ := exec_single_sent hd hn' hfirst h hft
    exact ⟨_, htrace, (framesOf_frameEvents c.bytes).trans (encode_single hn' hfirst).symm⟩

/-! ### Operations with in-range arguments -/

/-- Nothing undefined has occurred, and the observer knows the digit count. -/
def Rx.Knows (d : Nat) (rx : Rx) : Prop := rx.undef = false ∧ rx.digits = some d

/-- A cell frame within the digit count, with its opcode as the operations form it (R57, R114). -/
theorem Rx.Knows.receive_cellOpcode {rx : Rx} {d : Nat} (h : rx.Knows d) (h16 : d ≤ 16) {a : Nat} (ha : a < d)
    {codes : List Byte} (hk : a + codes.length ≤ d) : (rx.receive (cellOpcode a :: codes)).Knows d := by
  obtain ⟨hu, hd⟩ := h
  have layout : cellOpcode a = 0x2#4 ++ BitVec.ofNat 4 a := add_byteOf_eq_append 0x2#4 (by omega)
  have position : (BitVec.ofNat 4 a).toNat = a := by
    rw [BitVec.toNat_ofNat, Nat.mod_eq_of_lt (by omega)]
  rw [layout, Rx.receive_cell, Rx.cellWrite_within hu hd (by rw [position]; exact ha) (by rw [position]; exact hk)]
  exact ⟨hu, hd⟩

/-- A glyph frame of a slot 0 to 15 and at most five bytes (R57, R115). -/
theorem Rx.Knows.receive_glyphOpcode {rx : Rx} {d : Nat} (h : rx.Knows d) {a : Nat} (ha : a ≤ 15) {bitmap : List Byte}
    (hlen : bitmap.length ≤ 5) : (rx.receive (glyphOpcode a :: bitmap)).Knows d := by
  obtain ⟨hu, hd⟩ := h
  have layout : glyphOpcode a = 0x4#4 ++ BitVec.ofNat 4 a := add_byteOf_eq_append 0x4#4 ha
  rw [layout, Rx.receive_glyph _ _ hlen, Rx.glyphWrite_of_le hu hlen]
  exact ⟨hu, hd⟩

/-- A display operation of one frame whose argument is in range leaves the observer as its bytes do. -/
theorem exec_single_rx {s t : State} {r : Request} {c : Command} (hd : r.isDisplay = true) (hn : ∀ ms, r ≠ .fullTest ms)
    (hfirst : Request.firstCommand s.cfg r = some c) (hrange : Request.outOfRange s.cfg r = false)
    (h : exec r.toInstr s = .next t) (hft : t.fault = none) : t.rx = s.rx.receive c.bytes := by
  obtain ⟨-, hrx⟩ := exec_single_sent hd hn hfirst h hft
  rw [hrx, hrange, Rx.receiveFrom_false]

/-- Settles O58: each operation's frame is within the digit count, of a slot that exists, or of a command without a range. -/
theorem inRangeOperationsStayDefined : Obligations.InRangeOperationsStayDefined := by
  intro s t r _ _ hw hdigits hu hd hrange h hft
  obtain ⟨hpos, h16⟩ := digits_bounds_of_wf hw
  have knows : s.rx.Knows s.cfg.digits.toNat := ⟨hu, hdigits⟩
  show t.rx.Knows s.cfg.digits.toNat
  cases r with
  | init | teardown => cases hd
  | writeChar position code =>
    obtain ⟨hp, -⟩ := hrange
    have inRange : Request.outOfRange s.cfg (.writeChar position code) = false := decide_eq_false (by omega)
    rw [exec_single_rx rfl (by simp) rfl inRange h hft]
    exact knows.receive_cellOpcode h16 hp hp
  | writeString start text =>
    obtain ⟨hstart, hlen, -⟩ := hrange
    have inRange : Request.outOfRange s.cfg (.writeString start text) = false := decide_eq_false (by omega)
    rw [exec_single_rx rfl (by simp) rfl inRange h hft]
    exact knows.receive_cellOpcode h16 hstart hlen
  | loadCustomFont id data =>
    obtain ⟨hid, hlen, -⟩ := hrange
    have inRange : Request.outOfRange s.cfg (.loadCustomFont id data) = false := decide_eq_false (by omega)
    rw [exec_single_rx rfl (by simp) rfl inRange h hft]
    refine knows.receive_glyphOpcode hid (Nat.le_trans (List.takeWhile_sublist _).length_le ?_)
    rw [List.length_map, hlen]
  | setBrightness level =>
    rw [exec_single_rx rfl (by simp) rfl rfl h hft]
    exact (Rx.receive_brightness _ _).symm ▸ Rx.setBrightness_of_defined hu _ ▸ knows
  | fullTest ms =>
    obtain ⟨-, hrx⟩ := exec_fullTest_sent h hft
    rw [hrx, Rx.lampTest_of_defined hu, Rx.normal_of_defined (by exact hu)]
    exact knows
  | clear =>
    rw [exec_single_rx rfl (by simp) rfl rfl h hft, bytes_clearCommand]
    exact knows.receive_cellOpcode (a := 0) h16 hpos (by simp [blanks])

end Sys2Proof.Machine
